-- ==== Sys2Proof/Word.lean ====
section
/-! DEFINITION. Sys2Proof/Word.lean: the word types of the block, and the operation and operand kinds that the
decoder's tags and the ALU share. Bit 0 is the least significant bit (00_scope.md R11); every value is unsigned
(00_scope.md R12, 30_encoding.md R73). -/

namespace Sys2Proof

/-- A byte: a general register, a timer, a memory byte, a framebuffer cell, nn (00_scope.md R9). -/
abbrev Byte := BitVec 8

/-- A 16-bit value: an instruction word, PC, I, a stack entry (00_scope.md R9). -/
abbrev Word := BitVec 16

/-- A register index 0..15, the x and y fields (30_encoding.md R71, R73). -/
abbrev RegIx := BitVec 4

/-- A 4-bit immediate, the n field (30_encoding.md R71). -/
abbrev Nibble := BitVec 4

/-- A 12-bit immediate, the nnn field (30_encoding.md R71). -/
abbrev Addr := BitVec 12

/-- The index of VF, the flags register (00_scope.md R9, 10_state.md R24). -/
abbrev flagReg : RegIx := 0xF#4

/-- The ALU's nine operations (42_alu.md R120). -/
inductive AluOp where
  | set | or | and | xor | add | sub | shr | subRev | shl
  deriving DecidableEq, Repr

/-- The operand kind a skip's or an ALU operation's tag carries (30_encoding.md R72). -/
inductive OperandKind where
  | imm | reg
  deriving DecidableEq, Repr

end Sys2Proof
end

