-- ==== Sys2Proof/Config.lean ====
section
/-! DEFINITION. Sys2Proof/Config.lean: the fixed parameters (00_scope.md R9), the open parameters (00_scope.md R10),
the inputs of a STEP (10_state.md R35), the operations
the driver applies (10_state.md R20), and the free values: opaque constants with no body, of which nothing can be
computed or proved. -/

namespace Sys2Proof

/-- MEM_SIZE, the number of bytes of MEM (00_scope.md R9). -/
abbrev Config.memSize : Nat := 4096
/-- PROGRAM_BASE, where the image is loaded and PC starts (00_scope.md R9). -/
abbrev Config.programBase : Nat := 0x200
/-- FONT_BASE, where the font is installed (00_scope.md R9). -/
abbrev Config.fontBase : Nat := 0x050
/-- FONT_GLYPHS x GLYPH_BYTES (00_scope.md R9). -/
abbrev Config.fontSize : Nat := 80
/-- GLYPH_BYTES (00_scope.md R9). -/
abbrev Config.glyphBytes : Nat := 5
/-- WIDTH of the framebuffer (00_scope.md R9). -/
abbrev Config.width : Nat := 64
/-- HEIGHT of the framebuffer (00_scope.md R9). -/
abbrev Config.height : Nat := 32
/-- LIT, the fully lit intensity (00_scope.md R9). -/
abbrev Config.lit : Byte := 0xFF#8
/-- FADE_RATE (00_scope.md R9). -/
abbrev Config.fadeRate : Byte := 8#8
/-- MAX_IMAGE_BYTES (00_scope.md R9, 90_conflicts.md C1). -/
abbrev Config.maxImageBytes : Nat := 3583

/-- A block of font bytes, glyph g at 5g (00_scope.md R10, 20_memory.md R52). -/
abbrev Font := Vector Byte 80

/-- The open parameters that the model takes as arguments (00_scope.md R10). They are carried in State, and no
operation changes them, so that a statement about every state holds for every STACK_DEPTH and every FONT. -/
structure Params where
  /-- STACK_DEPTH: a number, or `none` for the document's unbounded stack (decision D8). -/
  stackDepth : Option Nat
  /-- FONT (decision D16). -/
  font : Font
  deriving DecidableEq, Repr

/-- The three inputs of a STEP besides the instruction stream (10_state.md R35). -/
structure StepInputs where
  /-- bit k is 1 when logical key k is pressed -/
  keys : BitVec 16
  /-- the random byte, consumed only by CXNN -/
  rnd : Byte
  /-- the key FX0A takes when several are pressed; see Machine/Operands.lean chosenKey -/
  keyChoice : BitVec 4
  deriving DecidableEq, Repr, Inhabited

/-- The five operations of the block with their inputs (10_state.md R20, R35). -/
inductive Operation where
  /-- LOAD(image, compat) (70_reset_and_hazards.md R240) -/
  | load (image : List Byte) (compat : Bool)
  /-- STEP(keys, rnd, keychoice) (30_encoding.md R90) -/
  | step (inputs : StepInputs)
  /-- TICK() (60_exceptions.md R225) -/
  | tick
  /-- FADE() (43_display.md R157) -/
  | fade
  /-- FBREAD() (10_state.md R33) -/
  | fbread
  deriving DecidableEq, Repr, Inhabited

/-- FREE VALUE: the n-th operation that the driver applies and nobody wrote down, a STEP's inputs with it: any of the five
(10_state.md R21: "A model takes the sequence of operations as a free input (any interleaving)"; R35: "A model takes each
as a draw: proofs hold for every value"). No body: nothing about them can be proved. DESIGN CHOICE, log 9. -/
opaque Config.operation : Nat → Operation

/-- FREE VALUE: the inputs of the STEP that State.withFetchWord makes due (10_state.md R35). Log 23. -/
opaque Config.stepInputs : Nat → StepInputs

/-- FREE VALUE: the FONT parameter of the state after reset (decision D16: no source gives the bitmaps). Log 4. -/
opaque Config.font : Font

/-- The conventional CHIP-8 font of 93_implementation_defined.md Part 2. PRESUMED: general knowledge, "a likely value,
not a fact"; no definition of the machine uses it, it is here for tests that need font bytes. Log 4. -/
def Config.conventionalFont : Font :=
  #v[0xF0, 0x90, 0x90, 0x90, 0xF0,  0x20, 0x60, 0x20, 0x20, 0x70,
     0xF0, 0x10, 0xF0, 0x80, 0xF0,  0xF0, 0x10, 0xF0, 0x10, 0xF0,
     0x90, 0x90, 0xF0, 0x10, 0x10,  0xF0, 0x80, 0xF0, 0x10, 0xF0,
     0xF0, 0x80, 0xF0, 0x90, 0xF0,  0xF0, 0x10, 0x20, 0x40, 0x40,
     0xF0, 0x90, 0xF0, 0x90, 0xF0,  0xF0, 0x90, 0xF0, 0x10, 0xF0,
     0xF0, 0x90, 0xF0, 0x90, 0x90,  0xE0, 0x90, 0xE0, 0x90, 0xE0,
     0xF0, 0x80, 0x80, 0x80, 0xF0,  0xE0, 0x90, 0x90, 0x90, 0xE0,
     0xF0, 0x80, 0xF0, 0x80, 0xF0,  0xF0, 0x80, 0xF0, 0x80, 0x80]

end Sys2Proof
end

