-- ==== Sys2Proof/Descriptor.lean ====
section
/-! DEFINITION. Sys2Proof/Descriptor.lean: the operation descriptor, the decoder's output: one of 22 tags or
Unrecognized, and the five operand fields (30_encoding.md R72, decision D17 for the names). -/

namespace Sys2Proof

/-- The 22 tags of 30_encoding.md R72 with the data each carries, and Unrecognized, which carries the raw word. -/
inductive Tag where
  | clearDisplay
  | ret
  | jump
  | call
  | skipEq (kind : OperandKind)
  | skipNe (kind : OperandKind)
  | arith (op : AluOp) (kind : OperandKind)
  | setIndex
  | jumpOffset
  | randomMask
  | draw
  | skipKey
  | skipNotKey
  | readDelay
  | waitKey
  | setDelay
  | setSound
  | addIndex
  | fontGlyph
  | decimal
  | saveRegs
  | loadRegs
  | unrecognized (w : Word)
  deriving DecidableEq, Repr

/-- The descriptor `(tag, x, y, n, nn, nnn)` (30_encoding.md R72). All five fields are always there, whether or not
the operation uses them (R71). -/
structure Descriptor where
  tag : Tag
  x   : RegIx
  y   : RegIx
  n   : Nibble
  nn  : Byte
  nnn : Addr
  deriving DecidableEq, Repr

end Sys2Proof
end

