-- ==== Sys2Proof/Syntax.lean ====
section
/-! DEFINITION. Sys2Proof/Syntax.lean: the instructions, one constructor per row of spec/opcode_table.json, in the
table's order (30_encoding.md R74). The operand types hold exactly the values the encodings admit (30_encoding.md
R71, R73), so every term of Instr is an instruction of the hardware. -/

namespace Sys2Proof

/-- The 34 instructions of 30_encoding.md R74, with the operands of the assembler form of R79. -/
inductive Instr where
  /-- `CLS`, 00E0 -/
  | cls
  /-- `RET`, 00EE -/
  | ret
  /-- `JP nnn`, 1NNN -/
  | jp (nnn : Addr)
  /-- `CALL nnn`, 2NNN -/
  | call (nnn : Addr)
  /-- `SE Vx, nn`, 3XNN -/
  | seImm (x : RegIx) (nn : Byte)
  /-- `SNE Vx, nn`, 4XNN -/
  | sneImm (x : RegIx) (nn : Byte)
  /-- `SE Vx, Vy`, 5XY0 -/
  | seReg (x y : RegIx)
  /-- `LD Vx, nn`, 6XNN -/
  | ldImm (x : RegIx) (nn : Byte)
  /-- `ADD Vx, nn`, 7XNN -/
  | addImm (x : RegIx) (nn : Byte)
  /-- `LD Vx, Vy`, 8XY0 -/
  | ldReg (x y : RegIx)
  /-- `OR Vx, Vy`, 8XY1 -/
  | orReg (x y : RegIx)
  /-- `AND Vx, Vy`, 8XY2 -/
  | andReg (x y : RegIx)
  /-- `XOR Vx, Vy`, 8XY3 -/
  | xorReg (x y : RegIx)
  /-- `ADD Vx, Vy`, 8XY4 -/
  | addReg (x y : RegIx)
  /-- `SUB Vx, Vy`, 8XY5 -/
  | sub (x y : RegIx)
  /-- `SHR Vx, Vy`, 8XY6 -/
  | shr (x y : RegIx)
  /-- `SUBN Vx, Vy`, 8XY7 -/
  | subn (x y : RegIx)
  /-- `SHL Vx, Vy`, 8XYE -/
  | shl (x y : RegIx)
  /-- `SNE Vx, Vy`, 9XY0 -/
  | sneReg (x y : RegIx)
  /-- `LD I, nnn`, ANNN -/
  | ldI (nnn : Addr)
  /-- `JP V0, nnn`, BNNN -/
  | jpV0 (nnn : Addr)
  /-- `RND Vx, nn`, CXNN -/
  | rnd (x : RegIx) (nn : Byte)
  /-- `DRW Vx, Vy, n`, DXYN -/
  | drw (x y : RegIx) (n : Nibble)
  /-- `SKP Vx`, EX9E -/
  | skp (x : RegIx)
  /-- `SKNP Vx`, EXA1 -/
  | sknp (x : RegIx)
  /-- `LD Vx, DT`, FX07 -/
  | ldVxDt (x : RegIx)
  /-- `LD Vx, K`, FX0A -/
  | ldVxK (x : RegIx)
  /-- `LD DT, Vx`, FX15 -/
  | ldDtVx (x : RegIx)
  /-- `LD ST, Vx`, FX18 -/
  | ldStVx (x : RegIx)
  /-- `ADD I, Vx`, FX1E -/
  | addI (x : RegIx)
  /-- `LD F, Vx`, FX29 -/
  | ldF (x : RegIx)
  /-- `LD B, Vx`, FX33 -/
  | ldB (x : RegIx)
  /-- `LD [I], Vx`, FX55 -/
  | save (x : RegIx)
  /-- `LD Vx, [I]`, FX65 -/
  | load (x : RegIx)
  deriving DecidableEq, Repr

end Sys2Proof
end

