-- ==== Sys2Proof/WellFormed.lean ====
section
/-! DEFINITION. Sys2Proof/WellFormed.lean: the checks on terms that their types alone do not make. Every term of Instr
is an instruction of the hardware (its operand types hold exactly the values the encodings admit, 30_encoding.md R73),
so Instr has no check. A descriptor can be ill formed (its fields overlap in the word, and not every tag's data
occurs), a STEP's inputs can (the key choice), and an image can (its length). -/

namespace Sys2Proof

/-- The nn field is bits 7..0, so it is the y and n fields together (30_encoding.md R71). -/
def Descriptor.nnAgrees (d : Descriptor) : Bool := d.nn == d.y ++ d.n

/-- The nnn field is bits 11..0, so it is the x, y and n fields together (30_encoding.md R71). -/
def Descriptor.nnnAgrees (d : Descriptor) : Bool := d.nnn == d.x ++ d.y ++ d.n

/-- Only Set and Add have an immediate form (30_encoding.md R72, tag 7). -/
def Descriptor.tagOccurs (d : Descriptor) : Bool :=
  match d.tag with
  | .arith op .imm => op == .set || op == .add
  | _ => true

/-- A descriptor that Decode can give: the three checks together (30_encoding.md R71, R72). -/
def Descriptor.wf (d : Descriptor) : Bool := d.nnAgrees && d.nnnAgrees && d.tagOccurs

/-- `keychoice` is a member of `keys` when any key is pressed (10_state.md R35, 45_timers_keys_random.md R198). The
machine makes any other choice into a member (Machine/Operands.lean chosenKey), so it needs no check before a STEP. -/
def StepInputs.wf (inp : StepInputs) : Bool := inp.keys == 0 || inp.keys.getLsbD inp.keyChoice.toNat

/-- The image has a length LOAD accepts (70_reset_and_hazards.md R241, R242). -/
def imageWf (image : List Byte) : Bool := decide (image.length ≤ Config.maxImageBytes)

end Sys2Proof
end

