-- ==== Sys2Proof/Decode.lean ====
section
/-! DEFINITION. Sys2Proof/Decode.lean: the decoder (30_encoding.md R71, R72, R75), a pure function of the word (R78);
the opcode map as a table (R74); the encoder; and the words as bytes, high byte first (20_memory.md R54). -/

namespace Sys2Proof

/-- Bits 15..12, the class nibble (00_scope.md R15). -/
def classOf (w : Word) : BitVec 4 := w.extractLsb' 12 4
/-- `x = w[11:8]` (30_encoding.md R71). -/
def fieldX (w : Word) : RegIx := w.extractLsb' 8 4
/-- `y = w[7:4]` (30_encoding.md R71). -/
def fieldY (w : Word) : RegIx := w.extractLsb' 4 4
/-- `n = w[3:0]` (30_encoding.md R71). -/
def fieldN (w : Word) : Nibble := w.extractLsb' 0 4
/-- `nn = w[7:0]` (30_encoding.md R71). -/
def fieldNN (w : Word) : Byte := w.extractLsb' 0 8
/-- `nnn = w[11:0]` (30_encoding.md R71). -/
def fieldNNN (w : Word) : Addr := w.extractLsb' 0 12

/-- The ALU operation of class 0x8, from the bottom nibble (30_encoding.md R75). -/
def aluOpOf (n : Nibble) : Option AluOp :=
  match n with
  | 0x0#4 => some .set
  | 0x1#4 => some .or
  | 0x2#4 => some .and
  | 0x3#4 => some .xor
  | 0x4#4 => some .add
  | 0x5#4 => some .sub
  | 0x6#4 => some .shr
  | 0x7#4 => some .subRev
  | 0xE#4 => some .shl
  | _ => none

/-- The tag of classes 0xE and 0xF, from the bottom byte (30_encoding.md R75). -/
def keyTagOf (nn : Byte) : Option Tag :=
  match nn with
  | 0x9E#8 => some .skipKey
  | 0xA1#8 => some .skipNotKey
  | _ => none

/-- The tag of class 0xF, from the bottom byte (30_encoding.md R75). -/
def miscTagOf (nn : Byte) : Option Tag :=
  match nn with
  | 0x07#8 => some .readDelay
  | 0x0A#8 => some .waitKey
  | 0x15#8 => some .setDelay
  | 0x18#8 => some .setSound
  | 0x1E#8 => some .addIndex
  | 0x29#8 => some .fontGlyph
  | 0x33#8 => some .decimal
  | 0x55#8 => some .saveRegs
  | 0x65#8 => some .loadRegs
  | _ => none

/-- The tag of a word: two full-word literals, then dispatch on the class nibble, then for five classes on the bottom
nibble or byte (30_encoding.md R75). -/
def tagOf (w : Word) : Tag :=
  if w = 0x00E0#16 then .clearDisplay
  else if w = 0x00EE#16 then .ret
  else match classOf w with
    | 0x1#4 => .jump
    | 0x2#4 => .call
    | 0x3#4 => .skipEq .imm
    | 0x4#4 => .skipNe .imm
    | 0x5#4 => if fieldN w = 0x0#4 then .skipEq .reg else .unrecognized w
    | 0x6#4 => .arith .set .imm
    | 0x7#4 => .arith .add .imm
    | 0x8#4 => ((aluOpOf (fieldN w)).map (Tag.arith · .reg)).getD (.unrecognized w)
    | 0x9#4 => if fieldN w = 0x0#4 then .skipNe .reg else .unrecognized w
    | 0xA#4 => .setIndex
    | 0xB#4 => .jumpOffset
    | 0xC#4 => .randomMask
    | 0xD#4 => .draw
    | 0xE#4 => (keyTagOf (fieldNN w)).getD (.unrecognized w)
    | 0xF#4 => (miscTagOf (fieldNN w)).getD (.unrecognized w)
    | _ => .unrecognized w

/-- `Decode(w)`, total on all 65536 words, with all five fields always extracted (30_encoding.md R71, R75). -/
def decode (w : Word) : Descriptor :=
  { tag := tagOf w, x := fieldX w, y := fieldY w, n := fieldN w, nn := fieldNN w, nnn := fieldNNN w }

/-- The instruction a descriptor stands for: the row of 30_encoding.md R74 with the operands of R79. -/
def Descriptor.instr (d : Descriptor) : Option Instr :=
  match d.tag with
  | .clearDisplay => some .cls
  | .ret => some .ret
  | .jump => some (.jp d.nnn)
  | .call => some (.call d.nnn)
  | .skipEq .imm => some (.seImm d.x d.nn)
  | .skipNe .imm => some (.sneImm d.x d.nn)
  | .skipEq .reg => some (.seReg d.x d.y)
  | .arith .set .imm => some (.ldImm d.x d.nn)
  | .arith .add .imm => some (.addImm d.x d.nn)
  | .arith .set .reg => some (.ldReg d.x d.y)
  | .arith .or .reg => some (.orReg d.x d.y)
  | .arith .and .reg => some (.andReg d.x d.y)
  | .arith .xor .reg => some (.xorReg d.x d.y)
  | .arith .add .reg => some (.addReg d.x d.y)
  | .arith .sub .reg => some (.sub d.x d.y)
  | .arith .shr .reg => some (.shr d.x d.y)
  | .arith .subRev .reg => some (.subn d.x d.y)
  | .arith .shl .reg => some (.shl d.x d.y)
  | .arith .or .imm | .arith .and .imm | .arith .xor .imm | .arith .sub .imm
  | .arith .shr .imm | .arith .subRev .imm | .arith .shl .imm => none
  | .skipNe .reg => some (.sneReg d.x d.y)
  | .setIndex => some (.ldI d.nnn)
  | .jumpOffset => some (.jpV0 d.nnn)
  | .randomMask => some (.rnd d.x d.nn)
  | .draw => some (.drw d.x d.y d.n)
  | .skipKey => some (.skp d.x)
  | .skipNotKey => some (.sknp d.x)
  | .readDelay => some (.ldVxDt d.x)
  | .waitKey => some (.ldVxK d.x)
  | .setDelay => some (.ldDtVx d.x)
  | .setSound => some (.ldStVx d.x)
  | .addIndex => some (.addI d.x)
  | .fontGlyph => some (.ldF d.x)
  | .decimal => some (.ldB d.x)
  | .saveRegs => some (.save d.x)
  | .loadRegs => some (.load d.x)
  | .unrecognized _ => none

/-- Why bytes are no instruction. -/
inductive DecodeError where
  /-- The word matches no row of 30_encoding.md R74 (R76); it is carried for diagnostics. -/
  | unrecognized (w : Word)
  /-- Fewer than two bytes: no instruction word (30_encoding.md R70). -/
  | truncated
  deriving DecidableEq, Repr

/-- The instruction a word stands for, or its rejection by name. -/
def decodeWord (w : Word) : Except DecodeError Instr :=
  match (decode w).instr with
  | some i => .ok i
  | none => .error (.unrecognized w)

/-- The instruction word of two bytes, the byte at the lower address high (20_memory.md R54, R55). -/
def wordOfBytes (hi lo : Byte) : Word := hi ++ lo

/-- The byte of a word at the lower address (20_memory.md R54). -/
def highByte (w : Word) : Byte := w.extractLsb' 8 8
/-- The byte of a word at the higher address (20_memory.md R54). -/
def lowByte (w : Word) : Byte := w.extractLsb' 0 8

/-- The decoder on bytes: the first instruction and the bytes after it, total on any bytes. -/
def decodeBytes : List Byte → Except DecodeError (Instr × List Byte)
  | hi :: lo :: rest =>
    match decodeWord (wordOfBytes hi lo) with
    | .ok i => .ok (i, rest)
    | .error e => .error e
  | _ => .error .truncated

/-- Bits numbered as spec/opcode_table.json numbers them: one 16-bit word, bit 0 its least significant. The word is laid
out as the hardware stores it (high byte first) and given to the decoder. Bits above `nbits` are 0; there is no
instruction of more than 16 bits (30_encoding.md R70). -/
def decodeTableWord (nbits w : Nat) : Option Instr :=
  if nbits ≤ 16 then
    let word : Word := BitVec.ofNat 16 (w % 2 ^ nbits)
    match decodeBytes [highByte word, lowByte word] with
    | .ok (i, _) => some i
    | .error _ => none
  else none

/-- One row of the opcode map: a word selects it when `(w & mask) = match` (30_encoding.md R74). -/
structure OpcodeRow where
  mask : Word
  value : Word
  tag : Tag
  deriving DecidableEq, Repr

/-- A word w selects a row (30_encoding.md R74). -/
def OpcodeRow.selects (r : OpcodeRow) (w : Word) : Bool := w &&& r.mask == r.value

/-- Rows of 30_encoding.md R74, classes 0x0 to 0x7. -/
def opcodeRowsLow : List OpcodeRow :=
  [⟨0xFFFF#16, 0x00E0#16, .clearDisplay⟩,
   ⟨0xFFFF#16, 0x00EE#16, .ret⟩,
   ⟨0xF000#16, 0x1000#16, .jump⟩,
   ⟨0xF000#16, 0x2000#16, .call⟩,
   ⟨0xF000#16, 0x3000#16, .skipEq .imm⟩,
   ⟨0xF000#16, 0x4000#16, .skipNe .imm⟩,
   ⟨0xF00F#16, 0x5000#16, .skipEq .reg⟩,
   ⟨0xF000#16, 0x6000#16, .arith .set .imm⟩,
   ⟨0xF000#16, 0x7000#16, .arith .add .imm⟩]

/-- Rows of 30_encoding.md R74, class 0x8. -/
def opcodeRowsAlu : List OpcodeRow :=
  [⟨0xF00F#16, 0x8000#16, .arith .set .reg⟩,
   ⟨0xF00F#16, 0x8001#16, .arith .or .reg⟩,
   ⟨0xF00F#16, 0x8002#16, .arith .and .reg⟩,
   ⟨0xF00F#16, 0x8003#16, .arith .xor .reg⟩,
   ⟨0xF00F#16, 0x8004#16, .arith .add .reg⟩,
   ⟨0xF00F#16, 0x8005#16, .arith .sub .reg⟩,
   ⟨0xF00F#16, 0x8006#16, .arith .shr .reg⟩,
   ⟨0xF00F#16, 0x8007#16, .arith .subRev .reg⟩,
   ⟨0xF00F#16, 0x800E#16, .arith .shl .reg⟩]

/-- Rows of 30_encoding.md R74, classes 0x9 to 0xE. -/
def opcodeRowsMid : List OpcodeRow :=
  [⟨0xF00F#16, 0x9000#16, .skipNe .reg⟩,
   ⟨0xF000#16, 0xA000#16, .setIndex⟩,
   ⟨0xF000#16, 0xB000#16, .jumpOffset⟩,
   ⟨0xF000#16, 0xC000#16, .randomMask⟩,
   ⟨0xF000#16, 0xD000#16, .draw⟩,
   ⟨0xF0FF#16, 0xE09E#16, .skipKey⟩,
   ⟨0xF0FF#16, 0xE0A1#16, .skipNotKey⟩]

/-- Rows of 30_encoding.md R74, class 0xF. -/
def opcodeRowsHigh : List OpcodeRow :=
  [⟨0xF0FF#16, 0xF007#16, .readDelay⟩,
   ⟨0xF0FF#16, 0xF00A#16, .waitKey⟩,
   ⟨0xF0FF#16, 0xF015#16, .setDelay⟩,
   ⟨0xF0FF#16, 0xF018#16, .setSound⟩,
   ⟨0xF0FF#16, 0xF01E#16, .addIndex⟩,
   ⟨0xF0FF#16, 0xF029#16, .fontGlyph⟩,
   ⟨0xF0FF#16, 0xF033#16, .decimal⟩,
   ⟨0xF0FF#16, 0xF055#16, .saveRegs⟩,
   ⟨0xF0FF#16, 0xF065#16, .loadRegs⟩]

/-- The 34 rows of 30_encoding.md R74, in its order. -/
def opcodeRows : List OpcodeRow := opcodeRowsLow ++ opcodeRowsAlu ++ opcodeRowsMid ++ opcodeRowsHigh

/-- The word of an instruction, written from the formats of 30_encoding.md R70 and the fixed bits of R74. -/
def encode : Instr → Word
  | .cls => 0x00E0#16
  | .ret => 0x00EE#16
  | .jp nnn => 0x1#4 ++ nnn
  | .call nnn => 0x2#4 ++ nnn
  | .seImm x nn => 0x3#4 ++ x ++ nn
  | .sneImm x nn => 0x4#4 ++ x ++ nn
  | .seReg x y => 0x5#4 ++ x ++ y ++ 0x0#4
  | .ldImm x nn => 0x6#4 ++ x ++ nn
  | .addImm x nn => 0x7#4 ++ x ++ nn
  | .ldReg x y => 0x8#4 ++ x ++ y ++ 0x0#4
  | .orReg x y => 0x8#4 ++ x ++ y ++ 0x1#4
  | .andReg x y => 0x8#4 ++ x ++ y ++ 0x2#4
  | .xorReg x y => 0x8#4 ++ x ++ y ++ 0x3#4
  | .addReg x y => 0x8#4 ++ x ++ y ++ 0x4#4
  | .sub x y => 0x8#4 ++ x ++ y ++ 0x5#4
  | .shr x y => 0x8#4 ++ x ++ y ++ 0x6#4
  | .subn x y => 0x8#4 ++ x ++ y ++ 0x7#4
  | .shl x y => 0x8#4 ++ x ++ y ++ 0xE#4
  | .sneReg x y => 0x9#4 ++ x ++ y ++ 0x0#4
  | .ldI nnn => 0xA#4 ++ nnn
  | .jpV0 nnn => 0xB#4 ++ nnn
  | .rnd x nn => 0xC#4 ++ x ++ nn
  | .drw x y n => 0xD#4 ++ x ++ y ++ n
  | .skp x => 0xE#4 ++ x ++ 0x9E#8
  | .sknp x => 0xE#4 ++ x ++ 0xA1#8
  | .ldVxDt x => 0xF#4 ++ x ++ 0x07#8
  | .ldVxK x => 0xF#4 ++ x ++ 0x0A#8
  | .ldDtVx x => 0xF#4 ++ x ++ 0x15#8
  | .ldStVx x => 0xF#4 ++ x ++ 0x18#8
  | .addI x => 0xF#4 ++ x ++ 0x1E#8
  | .ldF x => 0xF#4 ++ x ++ 0x29#8
  | .ldB x => 0xF#4 ++ x ++ 0x33#8
  | .save x => 0xF#4 ++ x ++ 0x55#8
  | .load x => 0xF#4 ++ x ++ 0x65#8

/-- The two bytes of an instruction as memory holds them, high byte first (20_memory.md R54). -/
def encodeBytes (i : Instr) : List Byte := [highByte (encode i), lowByte (encode i)]

end Sys2Proof
end

