-- ==== Sys2Proof/Machine/State.lean ====
section
/-! DEFINITION. Sys2Proof/Machine/State.lean: the state of the block as plain data (10_state.md R20 to R38), the fatal
conditions (60_exceptions.md R211, R212), the reasons the model stops, and the state after reset (R37). -/

namespace Sys2Proof.Machine

/-- RUN (10_state.md R31). -/
inductive Run where
  | unloaded | running | halted
  deriving DecidableEq, Repr

/-- The kind of a memory access (60_exceptions.md R212). -/
inductive AccessKind where
  | fetch | read | write
  deriving DecidableEq, Repr

/-- A fatal condition with its information: the fault record (60_exceptions.md R211, R212). -/
inductive Fatal where
  /-- cause 1: the word, and the instruction's address -/
  | unrecognizedInstruction (w : Word) (addr : Word)
  /-- cause 2: the address of the RET -/
  | stackUnderflow (addr : Word)
  /-- cause 3: the lowest offending address, and the access kind -/
  | memoryOutOfRange (addr : Nat) (kind : AccessKind)
  /-- cause 4: the address of the CALL -/
  | stackOverflow (addr : Word)
  /-- cause 5: the image length in bytes -/
  | imageTooLarge (length : Nat)
  deriving DecidableEq, Repr

/-- FB: 32 rows of 64 cells; the cell at column x of row y stands at index y * 64 + x of the row-major order
(10_state.md R33, 00_scope.md R13). Stored by rows: DESIGN CHOICE, log 27. -/
abbrev Framebuffer := Vector (Vector Byte 64) 32

/-- The state. The first eleven fields are the spec's (10_state.md R37); the last four are the MODEL's own: the open
parameters, the inputs of the STEP under way, the operations the driver applies next, and the count of free draws
(log 4, 5, 9, 10). -/
structure State where
  /-- V0..VF (10_state.md R22) -/
  v : Vector Byte 16
  /-- I (10_state.md R26) -/
  i : Word
  /-- PC (10_state.md R25) -/
  pc : Word
  /-- DT (10_state.md R28) -/
  dt : Byte
  /-- ST (10_state.md R29) -/
  st : Byte
  /-- STACK; the last element is the top (10_state.md R30, 00_scope.md R13) -/
  stack : List Word
  /-- COMPAT (10_state.md R27) -/
  compat : Bool
  /-- MEM in canonical form: addresses strictly rising below 4096, no entry equal to what an unlisted address reads as
  (10_state.md R32) -/
  mem : List Host.Cell
  /-- FB (10_state.md R33) -/
  fb : Framebuffer
  /-- RUN (10_state.md R31) -/
  run : Run
  /-- FAULT (10_state.md R31) -/
  fault : Option Fatal
  /-- MODEL: STACK_DEPTH and FONT (00_scope.md R10) -/
  params : Params
  /-- MODEL: the inputs of the STEP under way (10_state.md R35) -/
  inputs : StepInputs
  /-- MODEL: the operations the driver applies next; after them, and when empty, free operations (10_state.md R21) -/
  driver : List Operation
  /-- MODEL: how many operations were drawn from Config.operation -/
  draws : Nat
  deriving DecidableEq, Repr

/-- Why the machine has no transition. -/
inductive Fault where
  /-- Raised by STEP, TICK and FADE in the halted state, which a fatal condition leaves (60_exceptions.md R213: "the
  session is over, and a model treats the state as a fault, never as a normal end"). Carries FAULT. Safe: the spec
  gives no transition there. -/
  | halted (record : Option Fatal)
  deriving DecidableEq, Repr

/-- What the model declines to do. -/
inductive Refusal where
  /-- Raised by an arm of exec whose instruction has no meaning yet; no arm does. Safe: nothing is claimed. -/
  | notModelled (mnemonic : String)
  /-- Raised by STEP, TICK, FADE and FBREAD before the first LOAD (10_state.md R37, decision D3: only LOAD has a
  transition there). Safe: the model has no run from there. -/
  | notLoaded
  deriving DecidableEq, Repr

/-- The state right after reset: after LOAD of the empty image (10_state.md R37, 70_reset_and_hazards.md R240, R242).
The image and COMPAT are inputs of LOAD: empty and false are a DESIGN CHOICE (log 1, 2). The last four fields are the
model's own (log 4, 5, 9, 10). -/
def State.reset : State :=
  { v := Vector.replicate 16 0#8
    i := 0#16
    pc := 0x200#16
    dt := 0#8
    st := 0#8
    stack := []
    compat := false
    mem := []
    fb := Vector.replicate 32 (Vector.replicate 64 0#8)
    run := .running
    fault := none
    params := { stackDepth := none, font := Config.font }
    inputs := { keys := 0#16, rnd := 0#8, keyChoice := 0#4 }
    driver := []
    draws := 0 }

end Sys2Proof.Machine
end

