-- ==== Sys2Proof/Machine/Ops.lean ====
section
/-! DEFINITION. Sys2Proof/Machine/Ops.lean: the named operations over registers, stack and memory: reading and writing
V (10_state.md R22), the memory primitives (20_memory.md R50 to R55), STACK (00_scope.md R13), and taking a fatal
condition as one shared operation (60_exceptions.md R212, R214). There is no trap entry and no return from one
(60_exceptions.md R216, R217). -/

namespace Sys2Proof.Machine

/-! ## Registers -/

/-- `V[x]` read (00_scope.md R13, 10_state.md R22). -/
def State.reg (s : State) (x : RegIx) : Byte := s.v[x.toNat]'(x.isLt)

/-- `V[x] <- b` (00_scope.md R13, 10_state.md R22). -/
def State.setReg (s : State) (x : RegIx) (b : Byte) : State := { s with v := s.v.set x.toNat b x.isLt }

/-- The registers V0..V(count - 1), in order (FX55, 44_index_memory.md R174). -/
def State.regsFromZero (s : State) (count : Nat) : List Byte := s.v.toList.take count

/-- `V[k] <- b` for the bytes of a list, k counting from `first` (FX65, 44_index_memory.md R175). There is no register
above VF: a byte past it is dropped, which no instruction does (x + 1 is at most 16). -/
def State.setRegsFrom (s : State) (first : Nat) : List Byte → State
  | [] => s
  | b :: rest => State.setRegsFrom { s with v := s.v.setIfInBounds first b } (first + 1) rest

/-! ## Memory -/

/-- What an address reads as when nothing is listed for it: what LOAD of the empty image puts there, FONT in
0x050..0x09F and 0 elsewhere (10_state.md R37, 20_memory.md R52). Log 6. -/
def Memory.initial (font : Font) (a : Nat) : Byte :=
  if h : Config.fontBase ≤ a ∧ a < Config.fontBase + Config.fontSize then
    font[a - Config.fontBase]'(Nat.sub_lt_left_of_lt_add h.1 h.2)
  else 0#8

/-- The byte at an address of a memory in canonical form. -/
def Memory.read (font : Font) : List Host.Cell → Nat → Byte
  | [], a => Memory.initial font a
  | (b, u) :: rest, a => if a = b then u else Memory.read font rest a

/-- A memory with one byte written, in canonical form: a byte equal to what the unlisted address reads as is not
listed. -/
def Memory.write (font : Font) (a : Nat) (u : Byte) : List Host.Cell → List Host.Cell
  | [] => if u = Memory.initial font a then [] else [(a, u)]
  | (b, w) :: rest =>
    if a < b then
      if u = Memory.initial font a then (b, w) :: rest else (a, u) :: (b, w) :: rest
    else if a = b then
      if u = Memory.initial font a then rest else (a, u) :: rest
    else (b, w) :: Memory.write font a u rest

/-- The canonical form: addresses strictly rising, all below 4096 (20_memory.md R50), no entry equal to what its address
reads as when unlisted. -/
def Memory.wf (font : Font) : List Host.Cell → Bool
  | [] => true
  | [(b, w)] => decide (b < Config.memSize) && w != Memory.initial font b
  | (b, w) :: (c, x) :: rest =>
    decide (b < c) && w != Memory.initial font b && Memory.wf font ((c, x) :: rest)

/-- The byte of MEM at an address, whatever the address: the callers check the range first. -/
def State.byteAt (s : State) (a : Nat) : Byte := Memory.read s.params.font s.mem a

/-- MEM with one byte written, whatever the address: the callers check the range first. -/
def State.setByteAt (s : State) (a : Nat) (u : Byte) : State :=
  { s with mem := Memory.write s.params.font a u s.mem }

/-- The bytes at `base`, `base + 1`, ... (`count` of them). -/
def State.bytesAt (s : State) (base count : Nat) : List Byte := (List.range count).map fun k => s.byteAt (base + k)

/-- The bytes of a list written at `base`, `base + 1`, ... in order. -/
def State.setBytesAt (s : State) (base : Nat) : List Byte → State
  | [] => s
  | u :: rest => State.setBytesAt (s.setByteAt base u) (base + 1) rest

/-- The range check of an access to `base .. base + count - 1`, a mathematical sum with no wrap: fatal if any address is
above 0xFFF, reported at the lowest of them, `max(base, 0x1000)` (20_memory.md R53; decisions D6, D7, log 14). -/
def rangeCheck (base count : Nat) (kind : AccessKind) : Except Fatal Unit :=
  if base + count ≤ Config.memSize ∨ count = 0 then .ok ()
  else .error (.memoryOutOfRange (max base Config.memSize) kind)

/-- `MemRead(a, 1)` (20_memory.md R51). -/
def memRead (s : State) (a : Nat) : Except Fatal Byte :=
  match rangeCheck a 1 .read with
  | .error f => .error f
  | .ok _ => .ok (s.byteAt a)

/-- `MemWrite(a, 1, u)` (20_memory.md R51). -/
def memWrite (s : State) (a : Nat) (u : Byte) : Except Fatal State :=
  match rangeCheck a 1 .write with
  | .error f => .error f
  | .ok _ => .ok (s.setByteAt a u)

/-- The reads of an instruction that reads `count` bytes from `base` on: all addresses are checked before any is read
(20_memory.md R53). -/
def readBlock (s : State) (base count : Nat) : Except Fatal (List Byte) :=
  match rangeCheck base count .read with
  | .error f => .error f
  | .ok _ => .ok (s.bytesAt base count)

/-- The writes of an instruction that writes the bytes of a list from `base` on: all addresses are checked before any
byte is written (20_memory.md R53). -/
def writeBlock (s : State) (base : Nat) (bytes : List Byte) : Except Fatal State :=
  match rangeCheck base bytes.length .write with
  | .error f => .error f
  | .ok _ => .ok (s.setBytesAt base bytes)

/-- `Fetch()`: the two bytes at PC and PC + 1, the one at the lower address high; fatal when PC > 0xFFE
(20_memory.md R54; decision D5, log 14). -/
def fetch (s : State) : Except Fatal Word :=
  match rangeCheck s.pc.toNat 2 .fetch with
  | .error f => .error f
  | .ok _ => .ok (wordOfBytes (s.byteAt s.pc.toNat) (s.byteAt (s.pc.toNat + 1)))

/-! ## The call stack -/

/-- STACK holds STACK_DEPTH entries, and STACK_DEPTH is finite (41_control_flow.md R101, decision D8). A longer STACK,
which no run reaches, counts as full too: DESIGN CHOICE, log 5. -/
def State.stackFull (s : State) : Bool :=
  match s.params.stackDepth with
  | none => false
  | some depth => decide (depth ≤ s.stack.length)

/-- `push(a)` (00_scope.md R13). -/
def State.push (s : State) (a : Word) : State := { s with stack := s.stack ++ [a] }

/-! ## The program counter -/

/-- `PC <- (PC + 2) mod 2^16`, after every fetch (30_encoding.md R90), and once more for a skip (41_control_flow.md
R109). -/
def State.advance (s : State) : State := { s with pc := s.pc + 2#16 }

/-- `PC <- (PC - 2) mod 2^16` (45_timers_keys_random.md R197); during execution PC - 2 is the address of the executing
instruction (30_encoding.md R90). -/
def State.rewind (s : State) : State := { s with pc := s.pc - 2#16 }

/-! ## Taking a fatal condition -/

/-- `raise Fatal(cause, info)`: RUN <- halted, FAULT <- the record, nothing else (60_exceptions.md R212, R214). -/
def State.halt (s : State) (f : Fatal) : State := { s with run := .halted, fault := some f }

/-- A fatal condition raised while an instruction executes. Fatal conditions are precise: PC is again the address of the
instruction, as before the STEP (60_exceptions.md R214). -/
def State.raise (s : State) (f : Fatal) : State := s.rewind.halt f

/-- The end of an instruction: its next state, or the fatal condition it raises. The halted state is a next state (log
7). -/
def complete (s : State) (r : Except Fatal State) : Host.Outcome State Fault Refusal :=
  .next (match r with
    | .ok t => t
    | .error f => s.raise f)

/-- The cause code of a fatal condition (60_exceptions.md R212, decision D9). -/
def causeCode : Fatal → Nat
  | .unrecognizedInstruction _ _ => 1
  | .stackUnderflow _ => 2
  | .memoryOutOfRange _ _ => 3
  | .stackOverflow _ => 4
  | .imageTooLarge _ => 5

end Sys2Proof.Machine
end

