-- ==== Sys2Proof/Machine/Flags.lean ====
section
/-! DEFINITION. Sys2Proof/Machine/Flags.lean: the ALU with its flag (42_alu.md R120) and the write of a flag to VF
(10_state.md R24). -/

namespace Sys2Proof.Machine

/-- A flag as a byte: exactly 0 or 1 (10_state.md R24). -/
def flagByte (b : Bool) : Byte := if b then 1#8 else 0#8

/-- `V[0xF] <- flag` (10_state.md R24). -/
def State.setFlag (s : State) (b : Bool) : State := s.setReg flagReg (flagByte b)

/-- `if flag != none: V[0xF] <- flag` (42_alu.md R121). -/
def State.setFlag? (s : State) : Option Bool → State
  | none => s
  | some b => s.setFlag b

/-- `ALU(lhs, rhs, op, compat)`: the result and the flag, if the operation defines one (42_alu.md R120; the shift-left
as 90_conflicts.md C7 settles it). -/
def alu (lhs rhs : Byte) (op : AluOp) (compat : Bool) : Byte × Option Bool :=
  match op with
  | .set => (rhs, none)
  | .or => (lhs ||| rhs, none)
  | .and => (lhs &&& rhs, none)
  | .xor => (lhs ^^^ rhs, none)
  | .add =>
    let sum := lhs.toNat + rhs.toNat
    (BitVec.ofNat 8 sum, some (decide (sum > 255)))
  | .sub => (lhs - rhs, some (decide (rhs ≤ lhs)))
  | .subRev => (rhs - lhs, some (decide (lhs ≤ rhs)))
  | .shl =>
    let o := if compat then rhs else lhs
    (o <<< 1, some (o.getLsbD 7))
  | .shr =>
    let o := if compat then rhs else lhs
    (o >>> 1, some (o.getLsbD 0))

end Sys2Proof.Machine
end

