-- ==== Sys2Proof/Machine/Operands.lean ====
section
/-! DEFINITION. Sys2Proof/Machine/Operands.lean: the operand forms: a second operand that is an immediate or a register
(30_encoding.md R72), addresses and offsets (30_encoding.md R73), the index-indirect block (44_index_memory.md), the
key an instruction tests or takes (45_timers_keys_random.md R193, R198), and the write-back all ALU instructions share
(42_alu.md R121). -/

namespace Sys2Proof.Machine

/-- The second operand of a skip or an ALU instruction: the 8-bit immediate or register y (30_encoding.md R72). -/
inductive Operand where
  | imm (nn : Byte)
  | reg (y : RegIx)
  deriving DecidableEq, Repr

/-- The value of the second operand (42_alu.md R121). -/
def State.operand (s : State) : Operand → Byte
  | .imm nn => nn
  | .reg y => s.reg y

/-- `zext_16(nnn)` (00_scope.md R13, 30_encoding.md R73). -/
def zextAddr (nnn : Addr) : Word := nnn.setWidth 16

/-- `zext_16` of a byte (00_scope.md R13). -/
def zextByte (b : Byte) : Word := b.setWidth 16

/-- The register JP V0 adds: V0 when COMPAT = true, else Vx with x = nnn[11:8] (41_control_flow.md R104). -/
def offsetReg (compat : Bool) (nnn : Addr) : RegIx := if compat then 0x0#4 else nnn.extractLsb' 8 4

/-- `if c: PC <- PC + 2` (41_control_flow.md R109). -/
def State.skipIf (s : State) (c : Bool) : State := if c then s.advance else s

/-- The address of the first byte of an access through I (20_memory.md R53). -/
def State.indexAddr (s : State) : Nat := s.i.toNat

/-- Registers V0..Vx: how many they are (44_index_memory.md R174, R175). -/
def regCount (x : RegIx) : Nat := x.toNat + 1

/-- `I <- I + x + 1`, 16-bit (44_index_memory.md R174, R175; 42_alu.md R133). -/
def State.advanceIndex (s : State) (x : RegIx) : State := { s with i := s.i + x.setWidth 16 + 1#16 }

/-- Key k is pressed when bit k of `keys` is 1 (45_timers_keys_random.md R193). -/
def keyPressed (keys : BitVec 16) (k : BitVec 4) : Bool := keys.getLsbD k.toNat

/-- The key Vx names: its low nibble (45_timers_keys_random.md R193). -/
def State.keyOf (s : State) (x : RegIx) : BitVec 4 := (s.reg x).setWidth 4

/-- The lowest pressed key at or above `k`, of `fuel` keys. -/
def lowestKey (keys : BitVec 16) : Nat → Nat → BitVec 4
  | 0, k => BitVec.ofNat 4 k
  | fuel + 1, k => if keys.getLsbD k then BitVec.ofNat 4 k else lowestKey keys fuel (k + 1)

/-- The member of `keys` FX0A takes, when `keys` is not 0: the input's choice where it is a member, else the lowest
member (45_timers_keys_random.md R198). Every member is the choice of some input, and no other key is (log 11). -/
def chosenKey (inp : StepInputs) : BitVec 4 :=
  if keyPressed inp.keys inp.keyChoice then inp.keyChoice else lowestKey inp.keys 15 0

/-- `ArithExec(op, kind)`: the operands are read, the result is written to V[x], then the flag, if the operation defines
one, to VF, so the flag wins when x = 0xF (42_alu.md R121). -/
def arithExec (op : AluOp) (x : RegIx) (rhs : Operand) (s : State) : State :=
  let r := alu (s.reg x) (s.operand rhs) op s.compat
  (s.setReg x r.1).setFlag? r.2

end Sys2Proof.Machine
end

