-- ==== Sys2Proof/Machine/Arith.lean ====
section
/-! DEFINITION. Sys2Proof/Machine/Arith.lean: the ALU instructions, two immediate forms and nine register forms
(42_alu.md R122 to R132), each over the shared write-back of R121. None raises a fatal condition. -/

namespace Sys2Proof.Machine

/-- `LD Vx, nn` (42_alu.md R122). -/
def execLdImm (x : RegIx) (nn : Byte) (s : State) : Host.Outcome State Fault Refusal :=
  .next (arithExec .set x (.imm nn) s)

/-- `ADD Vx, nn`; VF receives the carry (42_alu.md R123; decision D14, log 13). -/
def execAddImm (x : RegIx) (nn : Byte) (s : State) : Host.Outcome State Fault Refusal :=
  .next (arithExec .add x (.imm nn) s)

/-- `LD Vx, Vy` (42_alu.md R124). -/
def execLdReg (x y : RegIx) (s : State) : Host.Outcome State Fault Refusal :=
  .next (arithExec .set x (.reg y) s)

/-- `OR Vx, Vy` (42_alu.md R125). -/
def execOrReg (x y : RegIx) (s : State) : Host.Outcome State Fault Refusal :=
  .next (arithExec .or x (.reg y) s)

/-- `AND Vx, Vy` (42_alu.md R126). -/
def execAndReg (x y : RegIx) (s : State) : Host.Outcome State Fault Refusal :=
  .next (arithExec .and x (.reg y) s)

/-- `XOR Vx, Vy` (42_alu.md R127). -/
def execXorReg (x y : RegIx) (s : State) : Host.Outcome State Fault Refusal :=
  .next (arithExec .xor x (.reg y) s)

/-- `ADD Vx, Vy` (42_alu.md R128). -/
def execAddReg (x y : RegIx) (s : State) : Host.Outcome State Fault Refusal :=
  .next (arithExec .add x (.reg y) s)

/-- `SUB Vx, Vy` (42_alu.md R129). -/
def execSub (x y : RegIx) (s : State) : Host.Outcome State Fault Refusal :=
  .next (arithExec .sub x (.reg y) s)

/-- `SHR Vx, Vy` (42_alu.md R130). -/
def execShr (x y : RegIx) (s : State) : Host.Outcome State Fault Refusal :=
  .next (arithExec .shr x (.reg y) s)

/-- `SUBN Vx, Vy` (42_alu.md R131). -/
def execSubn (x y : RegIx) (s : State) : Host.Outcome State Fault Refusal :=
  .next (arithExec .subRev x (.reg y) s)

/-- `SHL Vx, Vy` (42_alu.md R132). -/
def execShl (x y : RegIx) (s : State) : Host.Outcome State Fault Refusal :=
  .next (arithExec .shl x (.reg y) s)

end Sys2Proof.Machine
end

