-- ==== Sys2Proof/Machine/ControlFlow.lean ====
section
/-! DEFINITION. Sys2Proof/Machine/ControlFlow.lean: jumps, call, return and the four register skips
(41_control_flow.md). On entry PC is the instruction's address + 2 (30_encoding.md R90). -/

namespace Sys2Proof.Machine

/-- `RET` (41_control_flow.md R102). -/
def execRet (s : State) : Host.Outcome State Fault Refusal :=
  complete s (match s.stack.getLast? with
    | none => .error (.stackUnderflow (s.pc - 2#16))
    | some a => .ok { s with pc := a, stack := s.stack.dropLast })

/-- `JP nnn` (41_control_flow.md R100). -/
def execJp (nnn : Addr) (s : State) : Host.Outcome State Fault Refusal :=
  .next { s with pc := zextAddr nnn }

/-- `CALL nnn` (41_control_flow.md R101; StackOverflow: decision D8). -/
def execCall (nnn : Addr) (s : State) : Host.Outcome State Fault Refusal :=
  complete s
    (if s.stackFull then .error (.stackOverflow (s.pc - 2#16))
     else .ok { s.push s.pc with pc := zextAddr nnn })

/-- `SE Vx, nn` (41_control_flow.md R105). -/
def execSeImm (x : RegIx) (nn : Byte) (s : State) : Host.Outcome State Fault Refusal :=
  .next (s.skipIf (s.reg x == s.operand (.imm nn)))

/-- `SNE Vx, nn` (41_control_flow.md R106). -/
def execSneImm (x : RegIx) (nn : Byte) (s : State) : Host.Outcome State Fault Refusal :=
  .next (s.skipIf (s.reg x != s.operand (.imm nn)))

/-- `SE Vx, Vy` (41_control_flow.md R107). -/
def execSeReg (x y : RegIx) (s : State) : Host.Outcome State Fault Refusal :=
  .next (s.skipIf (s.reg x == s.operand (.reg y)))

/-- `SNE Vx, Vy` (41_control_flow.md R108). -/
def execSneReg (x y : RegIx) (s : State) : Host.Outcome State Fault Refusal :=
  .next (s.skipIf (s.reg x != s.operand (.reg y)))

/-- `JP V0, nnn`, the one jump that reads COMPAT (41_control_flow.md R104). -/
def execJpV0 (nnn : Addr) (s : State) : Host.Outcome State Fault Refusal :=
  .next { s with pc := zextAddr nnn + zextByte (s.reg (offsetReg s.compat nnn)) }

end Sys2Proof.Machine
end

