-- ==== Sys2Proof/Machine/Compositor.lean ====
section
/-! DEFINITION. Sys2Proof/Machine/Compositor.lean: the framebuffer operations: the flip primitive with its collision
(43_display.md R152), the sprite compositor with clipping (R154, R155, R156), the fade of a cell (R157), and the
row-major reading (10_state.md R33). -/

namespace Sys2Proof.Machine

/-- `FB[x, y]` (00_scope.md R13). -/
def cell (fb : Framebuffer) (x : Fin 64) (y : Fin 32) : Byte := (fb[y])[x]

/-- `FB[x, y] <- c` (00_scope.md R13). -/
def setCell (fb : Framebuffer) (x : Fin 64) (y : Fin 32) (c : Byte) : Framebuffer := fb.set y ((fb[y]).set x c)

/-- Every cell off (43_display.md R151). -/
def blankFb : Framebuffer := Vector.replicate 32 (Vector.replicate 64 0#8)

/-- `Flip(x, y)`: a fully lit cell is dimmed one step and collides; any other cell becomes fully lit and does not
(43_display.md R152, R153; 90_conflicts.md C8). The second part is the collision so far. -/
def flip (acc : Framebuffer × Bool) (x : Fin 64) (y : Fin 32) : Framebuffer × Bool :=
  if cell acc.1 x y = Config.lit then (setCell acc.1 x y (Config.lit - Config.fadeRate), true)
  else (setCell acc.1 x y Config.lit, acc.2)

/-- Column c of a sprite row: bit 7 - c flips the cell at (x0 + c, y); a column past 63 is dropped (43_display.md
R154, R155). -/
def drawColumn (x0 : Nat) (y : Fin 32) (row : Byte) (acc : Framebuffer × Bool) (c : Nat) : Framebuffer × Bool :=
  if h : x0 + c < 64 then
    if row.getLsbD (7 - c) then flip acc ⟨x0 + c, h⟩ y else acc
  else acc

/-- One sprite row at screen row y, columns 0..7; a row past 31 is dropped (43_display.md R155). -/
def drawRow (x0 y : Nat) (row : Byte) (acc : Framebuffer × Bool) : Framebuffer × Bool :=
  if h : y < 32 then (List.range 8).foldl (drawColumn x0 ⟨y, h⟩ row) acc else acc

/-- The rows of a sprite from screen row y on (43_display.md R155). -/
def drawRows (x0 : Nat) : Nat → List Byte → Framebuffer × Bool → Framebuffer × Bool
  | _, [], acc => acc
  | y, row :: rows, acc => drawRows x0 (y + 1) rows (drawRow x0 y row acc)

/-- `drawSprite`: the rows XOR-blitted at (x0, y0), with the collision (43_display.md R155). -/
def drawSprite (fb : Framebuffer) (x0 y0 : Nat) (rows : List Byte) : Framebuffer × Bool :=
  drawRows x0 y0 rows (fb, false)

/-- The start column of a sprite, V[x] mod 64 (43_display.md R155). -/
def startColumn (b : Byte) : Nat := b.toNat % Config.width

/-- The start row of a sprite, V[y] mod 32 (43_display.md R155). -/
def startRow (b : Byte) : Nat := b.toNat % Config.height

/-- FADE of one cell: a cell strictly between 0 and 0xFF loses FADE_RATE, floored at 0 (43_display.md R157). -/
def fadeCell (c : Byte) : Byte :=
  if c = 0#8 ∨ c = Config.lit then c else BitVec.ofNat 8 (c.toNat - Config.fadeRate.toNat)

/-- FADE of every cell (43_display.md R157). -/
def fadeFb (fb : Framebuffer) : Framebuffer := fb.map fun row => row.map fadeCell

/-- FB cell by cell in row-major order, index y * 64 + x (10_state.md R33, 43_display.md R159). -/
def cellsOf (fb : Framebuffer) : List Byte := fb.toList.flatMap fun row => row.toList

end Sys2Proof.Machine
end

