-- ==== Sys2Proof/Machine/Display.lean ====
section
/-! DEFINITION. Sys2Proof/Machine/Display.lean: the two display instructions (43_display.md R151, R155). -/

namespace Sys2Proof.Machine

/-- `CLS` (43_display.md R151). -/
def execCls (s : State) : Host.Outcome State Fault Refusal :=
  .next { s with fb := blankFb }

/-- `DRW Vx, Vy, n`: the coordinates and all n bytes are read first, then the rows are drawn, then VF receives the
collision, also when n = 0 (43_display.md R155; decision D22, log 14). -/
def execDrw (x y : RegIx) (n : Nibble) (s : State) : Host.Outcome State Fault Refusal :=
  complete s (match readBlock s s.indexAddr n.toNat with
    | .error f => .error f
    | .ok rows =>
      let r := drawSprite s.fb (startColumn (s.reg x)) (startRow (s.reg y)) rows
      .ok ({ s with fb := r.1 }.setFlag r.2))

end Sys2Proof.Machine
end

