-- ==== Sys2Proof/Machine/IndexMemory.lean ====
section
/-! DEFINITION. Sys2Proof/Machine/IndexMemory.lean: the index register and memory instructions (44_index_memory.md). -/

namespace Sys2Proof.Machine

/-- `LD I, nnn` (44_index_memory.md R170). -/
def execLdI (nnn : Addr) (s : State) : Host.Outcome State Fault Refusal :=
  .next { s with i := zextAddr nnn }

/-- `ADD I, Vx`: modulo 2^16, VF not written (44_index_memory.md R171). -/
def execAddI (x : RegIx) (s : State) : Host.Outcome State Fault Refusal :=
  .next { s with i := s.i + zextByte (s.reg x) }

/-- `LD F, Vx`: the formula unmasked (44_index_memory.md R172; decision D13, log 15). -/
def execLdF (x : RegIx) (s : State) : Host.Outcome State Fault Refusal :=
  .next { s with i := BitVec.ofNat 16 (Config.fontBase + (s.reg x).toNat * Config.glyphBytes) }

/-- The hundreds, tens and units digits of a byte (44_index_memory.md R173). -/
def decimalDigits (b : Byte) : List Byte :=
  [BitVec.ofNat 8 (b.toNat / 100), BitVec.ofNat 8 (b.toNat / 10 % 10), BitVec.ofNat 8 (b.toNat % 10)]

/-- `LD B, Vx`; I is unchanged (44_index_memory.md R173). -/
def execLdB (x : RegIx) (s : State) : Host.Outcome State Fault Refusal :=
  complete s (writeBlock s s.indexAddr (decimalDigits (s.reg x)))

/-- `LD [I], Vx` (44_index_memory.md R174). -/
def execSave (x : RegIx) (s : State) : Host.Outcome State Fault Refusal :=
  complete s (match writeBlock s s.indexAddr (s.regsFromZero (regCount x)) with
    | .error f => .error f
    | .ok t => .ok (t.advanceIndex x))

/-- `LD Vx, [I]` (44_index_memory.md R175). -/
def execLoad (x : RegIx) (s : State) : Host.Outcome State Fault Refusal :=
  complete s (match readBlock s s.indexAddr (regCount x) with
    | .error f => .error f
    | .ok bytes => .ok ((s.setRegsFrom 0 bytes).advanceIndex x))

end Sys2Proof.Machine
end

