-- ==== Sys2Proof/Machine/TimersKeysRandom.lean ====
section
/-! DEFINITION. Sys2Proof/Machine/TimersKeysRandom.lean: the timer, key-input and random instructions
(45_timers_keys_random.md). The inputs of the STEP stand in State's `inputs` (log 10). -/

namespace Sys2Proof.Machine

/-- `RND Vx, nn` (45_timers_keys_random.md R199). -/
def execRnd (x : RegIx) (nn : Byte) (s : State) : Host.Outcome State Fault Refusal :=
  .next (s.setReg x (s.inputs.rnd &&& nn))

/-- `SKP Vx` (45_timers_keys_random.md R194). -/
def execSkp (x : RegIx) (s : State) : Host.Outcome State Fault Refusal :=
  .next (s.skipIf (keyPressed s.inputs.keys (s.keyOf x)))

/-- `SKNP Vx` (45_timers_keys_random.md R195). -/
def execSknp (x : RegIx) (s : State) : Host.Outcome State Fault Refusal :=
  .next (s.skipIf (!keyPressed s.inputs.keys (s.keyOf x)))

/-- `LD Vx, DT` (45_timers_keys_random.md R190). -/
def execLdVxDt (x : RegIx) (s : State) : Host.Outcome State Fault Refusal :=
  .next (s.setReg x s.dt)

/-- `LD Vx, K`: a pressed key, or the same instruction again at the next STEP (45_timers_keys_random.md R197, R198). -/
def execLdVxK (x : RegIx) (s : State) : Host.Outcome State Fault Refusal :=
  .next (if s.inputs.keys = 0#16 then s.rewind else s.setReg x ((chosenKey s.inputs).setWidth 8))

/-- `LD DT, Vx` (45_timers_keys_random.md R191). -/
def execLdDtVx (x : RegIx) (s : State) : Host.Outcome State Fault Refusal :=
  .next { s with dt := s.reg x }

/-- `LD ST, Vx` (45_timers_keys_random.md R192). -/
def execLdStVx (x : RegIx) (s : State) : Host.Outcome State Fault Refusal :=
  .next { s with st := s.reg x }

end Sys2Proof.Machine
end

