-- ==== Sys2Proof/Machine/Operations.lean ====
section
/-! DEFINITION. Sys2Proof/Machine/Operations.lean: the five operations of the block, each one atomic transition of the
whole state (10_state.md R20), with their results; and the driver's choice of the next one (10_state.md R21). -/

namespace Sys2Proof.Machine

/-- What an operation gives back to the driver (10_state.md R20). -/
inductive OpResult where
  /-- LOAD, STEP and FADE give nothing back. -/
  | none
  /-- TICK: whether ST is nonzero after it (60_exceptions.md R225, R226). -/
  | sound (on : Bool)
  /-- FBREAD: the 2048 cells, row-major (10_state.md R33). -/
  | cells (fb : List Byte)
  deriving DecidableEq, Repr

/-- `require RUN = running` (30_encoding.md R90, 43_display.md R157, 60_exceptions.md R213, R225): no transition in the
halted state; none before the first LOAD (10_state.md R37, decision D3). -/
def whenRunning {α : Type} (s : State) (k : Host.Outcome α Fault Refusal) : Host.Outcome α Fault Refusal :=
  match s.run with
  | .running => k
  | .halted => .fault (.halted s.fault)
  | .unloaded => .refused .notLoaded

/-- Fetch, advance PC, decode, execute; the checks in the order of 60_exceptions.md R215 (30_encoding.md R90). The
inputs of the STEP stand in the state. -/
def cycle (s : State) : Host.Outcome State Fault Refusal :=
  match fetch s with
  | .error f => .next (s.halt f)
  | .ok w =>
    match decodeWord w with
    | .error _ => .next (s.advance.raise (.unrecognizedInstruction w (s.advance.pc - 2#16)))
    | .ok i => exec i s.advance

/-- `STEP(keys, rnd, keychoice)` (30_encoding.md R90). -/
def stepOp (inputs : StepInputs) (s : State) : Host.Outcome State Fault Refusal :=
  whenRunning s (cycle { s with inputs := inputs })

/-- A timer after a TICK: one less, floored at 0 (60_exceptions.md R225). -/
def countDown (t : Byte) : Byte := if t = 0#8 then 0#8 else t - 1#8

/-- The state after a TICK (60_exceptions.md R225). -/
def State.tick (s : State) : State := { s with dt := countDown s.dt, st := countDown s.st }

/-- `TICK()`: the result is whether ST is nonzero after it (60_exceptions.md R225). -/
def tickOp (s : State) : Host.Outcome (State × OpResult) Fault Refusal :=
  whenRunning s (.next (s.tick, .sound (s.tick.st != 0#8)))

/-- `FADE()` (43_display.md R157). -/
def fadeOp (s : State) : Host.Outcome State Fault Refusal :=
  whenRunning s (.next { s with fb := fadeFb s.fb })

/-- `FBREAD()`: all cells, and nothing changes; also in the halted state (10_state.md R33, 60_exceptions.md R213), but
not before the first LOAD (10_state.md R37). -/
def fbreadOp (s : State) : Host.Outcome (State × OpResult) Fault Refusal :=
  match s.run with
  | .unloaded => .refused .notLoaded
  | .running | .halted => .next (s, .cells (cellsOf s.fb))

/-- The image's bytes written from an address on, over memory in canonical form (70_reset_and_hazards.md R240). -/
def installImage (font : Font) : Nat → List Byte → List Host.Cell → List Host.Cell
  | _, [], mem => mem
  | a, u :: rest, mem => installImage font (a + 1) rest (Memory.write font a u mem)

/-- Every element as a successful LOAD sets it (70_reset_and_hazards.md R240; the values of V, I, DT, ST, STACK and FB:
decision D2, log 3). The parameters and the model's own fields are no element of the block and stay. -/
def State.loaded (s : State) (image : List Byte) (compat : Bool) : State :=
  { s with
    v := Vector.replicate 16 0#8
    i := 0#16
    pc := BitVec.ofNat 16 Config.programBase
    dt := 0#8
    st := 0#8
    stack := []
    compat := compat
    mem := installImage s.params.font Config.programBase image []
    fb := blankFb
    run := .running
    fault := none }

/-- `LOAD(image, compat)`, in any RUN state: an image that is too long halts the block and writes no other element
(70_reset_and_hazards.md R240, R241; 90_conflicts.md C1, log 17). -/
def loadOp (image : List Byte) (compat : Bool) (s : State) : Host.Outcome State Fault Refusal :=
  .next (if image.length > Config.maxImageBytes then s.halt (.imageTooLarge image.length)
    else s.loaded image compat)

/-- An operation without a result, seen as one with a result. -/
def noResult : Host.Outcome State Fault Refusal → Host.Outcome (State × OpResult) Fault Refusal
  | .next s => .next (s, .none)
  | .fault f => .fault f
  | .refused r => .refused r

/-- The state of an operation's answer, its result dropped. -/
def dropResult : Host.Outcome (State × OpResult) Fault Refusal → Host.Outcome State Fault Refusal
  | .next r => .next r.1
  | .fault f => .fault f
  | .refused r => .refused r

/-- One operation, with its result (10_state.md R20). -/
def applyOp (op : Operation) (s : State) : Host.Outcome (State × OpResult) Fault Refusal :=
  match op with
  | .load image compat => noResult (loadOp image compat s)
  | .step inputs => noResult (stepOp inputs s)
  | .tick => tickOp s
  | .fade => noResult (fadeOp s)
  | .fbread => fbreadOp s

/-- The operation the driver applies next, and the state without it in the list: the first of the list, or, when the
list is empty, a fresh free operation, so that every endless sequence of the five operations is admitted (10_state.md
R21, R35; DESIGN CHOICE, log 9). -/
def nextOperation (s : State) : Operation × State :=
  match s.driver with
  | op :: rest => (op, { s with driver := rest })
  | [] => (Config.operation s.draws, { s with draws := s.draws + 1 })

/-- The driver applies its next operation (10_state.md R20, R21). -/
def driverStep (s : State) : Host.Outcome State Fault Refusal :=
  dropResult (applyOp (nextOperation s).1 (nextOperation s).2)

/-- Where the next STEP fetches: PC if it can be fetched at all (20_memory.md R54), else the program base. -/
def fetchSlot (s : State) : Word :=
  if s.pc.toNat + 2 ≤ Config.memSize then s.pc else BitVec.ofNat 16 Config.programBase

/-- The state with one instruction word placed where the next step fetches it, running, with a STEP as the next
operation, whose inputs are free (log 23). -/
def placeWord (s : State) (w : Word) : State :=
  let at_ := fetchSlot s
  let placed := (s.setByteAt at_.toNat (highByte w)).setByteAt (at_.toNat + 1) (lowByte w)
  { placed with pc := at_, run := .running, fault := none, driver := [.step (Config.stepInputs s.draws)] }

end Sys2Proof.Machine
end

