-- ==== Sys2Proof/Machine/Step.lean ====
section
/-! DEFINITION. Sys2Proof/Machine/Step.lean: one step of the machine, the next of the driver's operations
(10_state.md R20, R21), and the placing of an instruction where the next step fetches it. -/

namespace Sys2Proof.Machine

/-- One step: the driver's next operation, a free one when it has named none (Machine/Operations.lean driverStep; log
9). -/
def step (s : State) : Host.Outcome State Fault Refusal := driverStep s

/-- `s` with the instruction whose bits are `w` stored where `step` fetches its next instruction: one 16-bit word,
bits above `nbits` 0 (30_encoding.md R70; log 23). -/
def State.withFetchWord (s : State) (nbits w : Nat) : State := placeWord s (BitVec.ofNat 16 (w % 2 ^ nbits))

end Sys2Proof.Machine
end

