-- ==== Sys2Proof/Safety.lean ====
section
/-! DEFINITION. Sys2Proof/Safety.lean: the terms claims are made in: what is the same in two states, what a safe state
is, and the invariants of the block. -/

namespace Sys2Proof.Machine

/-- Registers other than those of a list hold the same values (for frames, 10_state.md R23). -/
def sameRegsExcept (xs : List RegIx) (s t : State) : Prop := ∀ r : RegIx, r ∉ xs → t.reg r = s.reg r

/-- `t` is `s` but for V0..VF. -/
def onlyRegs (s t : State) : Prop := t = { s with v := t.v }

/-- `t` is `s` but for PC. -/
def onlyPc (s t : State) : Prop := t = { s with pc := t.pc }

/-- `t` is `s` but for I. -/
def onlyIndex (s t : State) : Prop := t = { s with i := t.i }

/-- `t` is `s` but for the bytes of MEM. -/
def onlyMem (s t : State) : Prop := t = { s with mem := t.mem }

/-- Every byte of MEM outside `base .. base + count - 1` reads as before. -/
def sameBytesOutside (base count : Nat) (s t : State) : Prop :=
  ∀ a : Nat, (a < base ∨ base + count ≤ a) → t.byteAt a = s.byteAt a

/-- `t` is the halted state a precise fatal condition leaves: `s` but for RUN and FAULT (60_exceptions.md R214). -/
def haltedWith (f : Fatal) (s t : State) : Prop := t = { s with run := .halted, fault := some f }

/-- RUN = halted exactly when FAULT is not none (10_state.md R31). -/
def faultMatchesRun (s : State) : Prop := s.run = .halted ↔ s.fault ≠ none

/-- MEM is in canonical form. -/
def memCanonical (s : State) : Prop := Memory.wf s.params.font s.mem = true

/-- The intensities the block produces from an all-zero framebuffer: 0, 0xFF and 0xF7 - 8k, that is 0 or 7 modulo 8
(43_display.md R150). -/
def legalIntensity (c : Byte) : Prop := c = 0#8 ∨ c.toNat % 8 = 7

/-- Every cell has a legal intensity (43_display.md R150). -/
def fbLegal (s : State) : Prop := ∀ (x : Fin 64) (y : Fin 32), legalIntensity (cell s.fb x y)

/-- PC and the return addresses are in the range no STEP leaves (30_encoding.md R91). -/
def pcBounded (s : State) : Prop := s.pc.toNat ≤ 0x10FE ∧ ∀ a ∈ s.stack, a.toNat ≤ 0x1000

/-- STACK holds at most STACK_DEPTH entries (10_state.md R30). -/
def stackBounded (s : State) : Prop := ∀ depth, s.params.stackDepth = some depth → s.stack.length ≤ depth

/-- The word at PC, as Fetch forms it (20_memory.md R54). -/
def wordAtPc (s : State) : Word := wordOfBytes (s.byteAt s.pc.toNat) (s.byteAt (s.pc.toNat + 1))

/-- PC can be fetched (20_memory.md R54). -/
def fetchable (s : State) : Prop := s.pc.toNat ≤ 0xFFE

/-- A safe state: loaded and not halted (60_exceptions.md R213). -/
def safeState (s : State) : Prop := s.run = .running

/-- `t` is the state a fatal condition leaves when the executing instruction raises it: PC is again the instruction's
address, RUN and FAULT say what happened, and nothing else differs (60_exceptions.md R214). -/
def raisedFrom (f : Fatal) (s t : State) : Prop := t = { s with pc := s.pc - 2#16, run := .halted, fault := some f }

/-- The instruction's own check fails (60_exceptions.md R211): the six instructions that can raise, and when. That a STACK
longer than a finite STACK_DEPTH counts as full is a DESIGN CHOICE (log 5). -/
def checkFails (i : Instr) (s : State) : Prop :=
  match i with
  | .ret => s.stack = []
  | .call _ => ∃ depth, s.params.stackDepth = some depth ∧ depth ≤ s.stack.length
  | .drw _ _ n => 1 ≤ n.toNat ∧ 0xFFF < s.i.toNat + n.toNat - 1
  | .ldB _ => 0xFFD < s.i.toNat
  | .save x | .load x => 0xFFF < s.i.toNat + x.toNat
  | _ => False

/-- The ALU instructions with the operation, the destination and the second operand of each (42_alu.md R122 to R132). -/
def aluForm (i : Instr) : Option (AluOp × RegIx × Operand) :=
  match i with
  | .ldImm x nn => some (.set, x, .imm nn)
  | .addImm x nn => some (.add, x, .imm nn)
  | .ldReg x y => some (.set, x, .reg y)
  | .orReg x y => some (.or, x, .reg y)
  | .andReg x y => some (.and, x, .reg y)
  | .xorReg x y => some (.xor, x, .reg y)
  | .addReg x y => some (.add, x, .reg y)
  | .sub x y => some (.sub, x, .reg y)
  | .shr x y => some (.shr, x, .reg y)
  | .subn x y => some (.subRev, x, .reg y)
  | .shl x y => some (.shl, x, .reg y)
  | _ => none

/-- The instruction reads COMPAT (10_state.md R27: exactly BNNN, 8XY6 and 8XYE). -/
def readsCompat (i : Instr) : Prop :=
  match i with
  | .jpV0 _ | .shr _ _ | .shl _ _ => True
  | _ => False

/-- What address `a` reads as after FX55 with x stored V0..Vx at I (44_index_memory.md R174). -/
def byteAfterSave (s : State) (x : RegIx) (a : Nat) : Byte :=
  if s.i.toNat ≤ a ∧ a ≤ s.i.toNat + x.toNat then s.reg (BitVec.ofNat 4 (a - s.i.toNat)) else s.byteAt a

/-- What address `a` reads as after FX33 stored the digits of V[x] at I, I + 1, I + 2 (44_index_memory.md R173). -/
def byteAfterDecimal (s : State) (x : RegIx) (a : Nat) : Byte :=
  if a = s.i.toNat then BitVec.ofNat 8 ((s.reg x).toNat / 100)
  else if a = s.i.toNat + 1 then BitVec.ofNat 8 ((s.reg x).toNat / 10 % 10)
  else if a = s.i.toNat + 2 then BitVec.ofNat 8 ((s.reg x).toNat % 10)
  else s.byteAt a

/-- The instruction writes a flag to VF (10_state.md R24: exactly these). -/
def writesFlag (i : Instr) : Prop :=
  match i with
  | .addImm _ _ | .addReg _ _ | .sub _ _ | .shr _ _ | .subn _ _ | .shl _ _ | .drw _ _ _ => True
  | _ => False

/-- The instruction may write register r as its destination (10_state.md R23: exactly these). -/
def writesReg (i : Instr) (r : RegIx) : Prop :=
  match i with
  | .ldImm x _ | .addImm x _ | .ldReg x _ | .orReg x _ | .andReg x _ | .xorReg x _ | .addReg x _ | .sub x _
  | .shr x _ | .subn x _ | .shl x _ | .rnd x _ | .ldVxDt x | .ldVxK x => r = x
  | .load x => r.toNat ≤ x.toNat
  | _ => False

/-- The sprite of a DXYN sets the cell (x, y): its column and row are within 8 and n of the start (V[x] mod 64,
V[y] mod 32), and the bit of the sprite row for that column, bit 7 leftmost, is 1 (43_display.md R154 to R156). -/
def spriteCovers (s : State) (vx vy : RegIx) (n : Nibble) (x : Fin 64) (y : Fin 32) : Prop :=
  (s.reg vx).toNat % 64 ≤ x ∧ (x : Nat) < (s.reg vx).toNat % 64 + 8 ∧
  (s.reg vy).toNat % 32 ≤ y ∧ (y : Nat) < (s.reg vy).toNat % 32 + n.toNat ∧
  (s.byteAt (s.i.toNat + (y - (s.reg vy).toNat % 32))).getLsbD (7 - (x - (s.reg vx).toNat % 64)) = true

end Sys2Proof.Machine
end

