-- ==== Sys2Proof/Certificates/Slice0/Obligations.lean ====
section
/-! DEFINITION. Sys2Proof/Certificates/Slice0/Obligations.lean: the statements for the provers, each with the rule of
spec/ it comes from. "Model's choice" in a docstring names a log entry (notes/assumptions); "the spec's decision" names
a decision of 92_eei_decisions.md, which the spec marks as its own. In exec, PC is the instruction's address + 2
(30_encoding.md R90). -/

open Sys2Proof Sys2Proof.Machine

/-! ## Encoding -/

/-- 30_encoding.md R74, R75: decoding an encoded instruction gives it back, for every instruction and every operand. -/
def Obligations.DecodeOfEncodeIsIdentity : Prop :=
  ∀ i : Instr, decodeWord (encode i) = .ok i

/-- 30_encoding.md R74, R75: a word that decodes to an instruction is that instruction's word: no two words share a
meaning and no bit of a recognized word is dropped. -/
def Obligations.EncodeOfDecodeIsIdentity : Prop :=
  ∀ (w : Word) (i : Instr), decodeWord w = .ok i → encode i = w

/-- 30_encoding.md sections 3 and 4: there are 34 rows; the decoder gives each word the tag of the row it selects, a word
that selects no row is Unrecognized and carries the word, and no two rows select the same word (which the spec marks as
derived). -/
def Obligations.DecoderAgreesWithOpcodeMap : Prop :=
  opcodeRows.length = 34 ∧
  ∀ w : Word,
    (∀ r ∈ opcodeRows, r.selects w = true → (decode w).tag = r.tag) ∧
    ((∀ r ∈ opcodeRows, r.selects w = false) → (decode w).tag = .unrecognized w) ∧
    (∀ r ∈ opcodeRows, ∀ q ∈ opcodeRows, r.selects w = true → q.selects w = true → r = q)

/-- 30_encoding.md R76, R77: the unrecognized words are exactly the listed ones, by class nibble (w / 4096), bottom
nibble (w mod 16) and bottom byte (w mod 256). -/
def Obligations.UnrecognizedWordsAreTheListed : Prop :=
  ∀ w : Word, decodeWord w = .error (.unrecognized w) ↔
    (w.toNat / 4096 = 0 ∧ w.toNat ≠ 0x00E0 ∧ w.toNat ≠ 0x00EE) ∨
    (w.toNat / 4096 = 5 ∧ w.toNat % 16 ≠ 0) ∨
    (w.toNat / 4096 = 8 ∧ w.toNat % 16 ∈ [0x8, 0x9, 0xA, 0xB, 0xC, 0xD, 0xF]) ∨
    (w.toNat / 4096 = 9 ∧ w.toNat % 16 ≠ 0) ∨
    (w.toNat / 4096 = 0xE ∧ w.toNat % 256 ∉ [0x9E, 0xA1]) ∨
    (w.toNat / 4096 = 0xF ∧ w.toNat % 256 ∉ [0x07, 0x0A, 0x15, 0x18, 0x1E, 0x29, 0x33, 0x55, 0x65])

/-- 30_encoding.md R71: all five operand fields are extracted from every word, whatever its tag. -/
def Obligations.DecodeExtractsAllFields : Prop :=
  ∀ w : Word,
    (decode w).x.toNat = w.toNat / 256 % 16 ∧ (decode w).y.toNat = w.toNat / 16 % 16 ∧
    (decode w).n.toNat = w.toNat % 16 ∧ (decode w).nn.toNat = w.toNat % 256 ∧ (decode w).nnn.toNat = w.toNat % 4096

/-- 95_test_vectors.md S1, V1: words written out from the spec's encodings decode to what they stand for. -/
def Obligations.SampleWordsDecode : Prop :=
  decodeWord 0x00E0#16 = .ok .cls ∧ decodeWord 0x00EE#16 = .ok .ret ∧ decodeWord 0x1ABC#16 = .ok (.jp 0xABC) ∧
  decodeWord 0x5120#16 = .ok (.seReg 1 2) ∧ decodeWord 0x8AB4#16 = .ok (.addReg 0xA 0xB) ∧
  decodeWord 0x8ABE#16 = .ok (.shl 0xA 0xB) ∧ decodeWord 0xB123#16 = .ok (.jpV0 0x123) ∧
  decodeWord 0xD123#16 = .ok (.drw 1 2 3) ∧ decodeWord 0xEFA1#16 = .ok (.sknp 0xF) ∧
  decodeWord 0xF165#16 = .ok (.load 1) ∧ decodeWord 0x5121#16 = .error (.unrecognized 0x5121#16) ∧
  decodeWord 0xFFFF#16 = .error (.unrecognized 0xFFFF#16)

/-- 20_memory.md R54, R55, 30_encoding.md R70: an instruction is two bytes, high byte first; the decoder on bytes reads
it back and leaves the bytes after it. -/
def Obligations.BytesDecodeHighByteFirst : Prop :=
  ∀ (i : Instr) (rest : List Byte),
    decodeBytes (encodeBytes i ++ rest) = .ok (i, rest) ∧
    encodeBytes i = [BitVec.ofNat 8 ((encode i).toNat / 256), BitVec.ofNat 8 ((encode i).toNat % 256)]

/-! ## The step cycle and the operations -/

/-- 10_state.md R20, R21, R35, 30_encoding.md R90: a step of the machine applies the driver's next operation, whichever of
the five it is; where that is a STEP on a running machine with PC fetchable, the step runs the decoded instruction on the
state with PC advanced and the STEP's inputs in place. Model's choice (log 9, 10): the next operation is the head of
`driver`, and a free one when it is empty; the inputs stand in State. -/
def Obligations.StepRunsDecodedInstruction : Prop :=
  (∀ (s : State) (op : Operation) (rest : List Operation), s.driver = op :: rest →
    step s = dropResult (applyOp op { s with driver := rest })) ∧
  (∀ s : State, s.driver = [] →
    step s = step { s with driver := [Config.operation s.draws], draws := s.draws + 1 }) ∧
  (∀ (s : State) (i : Instr) (inputs : StepInputs) (rest : List Operation), s.run = .running → fetchable s →
    decodeWord (wordAtPc s) = .ok i → s.driver = .step inputs :: rest →
    step s = exec i { s with pc := s.pc + 2#16, inputs := inputs, driver := rest })

/-- 60_exceptions.md R215 and the spec's decisions D5, D7: a STEP whose PC is above 0xFFE raises MemoryOutOfRange (fetch)
at max(PC, 0x1000), whatever the bytes are; else a word that is not recognized raises UnrecognizedInstruction with the
word and its address. The state is otherwise as before. -/
def Obligations.FetchAndDecodeFaults : Prop :=
  ∀ (inputs : StepInputs) (s : State), s.run = .running →
    (0xFFE < s.pc.toNat → ∃ t, stepOp inputs s = .next t ∧
      haltedWith (.memoryOutOfRange (max s.pc.toNat 0x1000) .fetch) { s with inputs := inputs } t) ∧
    (fetchable s → decodeWord (wordAtPc s) = .error (.unrecognized (wordAtPc s)) → ∃ t, stepOp inputs s = .next t ∧
      haltedWith (.unrecognizedInstruction (wordAtPc s) s.pc) { s with inputs := inputs } t)

/-- 60_exceptions.md R213 and the spec's decisions D3, D10: in the halted state STEP, TICK and FADE have no transition,
FBREAD gives the cells and changes nothing, and LOAD of an image that fits starts a new session; in the unloaded state
only LOAD has a transition. The fault and the refusal are the model's names (log 7, 8). -/
def Obligations.OperationsRequireRunning : Prop :=
  ∀ (s : State) (inputs : StepInputs) (image : List Byte) (compat : Bool),
    (s.run = .halted →
      stepOp inputs s = .fault (.halted s.fault) ∧ tickOp s = .fault (.halted s.fault) ∧
      fadeOp s = .fault (.halted s.fault) ∧ fbreadOp s = .next (s, .cells (cellsOf s.fb))) ∧
    (s.run = .unloaded →
      stepOp inputs s = .refused .notLoaded ∧ tickOp s = .refused .notLoaded ∧
      fadeOp s = .refused .notLoaded ∧ fbreadOp s = .refused .notLoaded) ∧
    (image.length ≤ 3583 → ∃ t, loadOp image compat s = .next t ∧ t.run = .running ∧ t.fault = none)

/-- 60_exceptions.md section 1 and the spec's decision D7: a STEP that raises a fatal condition leaves every element as
it was before the STEP but RUN and FAULT, whatever the instruction; PC is that of the faulting instruction. -/
def Obligations.FatalConditionsArePrecise : Prop :=
  ∀ (inputs : StepInputs) (s t : State), stepOp inputs s = .next t → t.run = .halted →
    ∃ f, haltedWith f { s with inputs := inputs } t

/-- 60_exceptions.md section 1 and the spec's decisions D6, D8, D22 (log 5, 14): on a running machine an instruction raises
a fatal condition exactly when its own check fails: RET, CALL, DXYN, FX33, FX55 and FX65 have one, no other instruction
raises anything. That CALL also raises on a STACK longer than a finite STACK_DEPTH, which no run reaches, is the model's
choice (log 5): the spec's check is that the length equals the depth. -/
def Obligations.InstructionHaltsExactlyOnItsCheck : Prop :=
  ∀ (i : Instr) (s t : State), s.run = .running → exec i s = .next t → (t.run = .halted ↔ checkFails i s)

/-! ## Invariants that every step keeps -/

/-- 20_memory.md R50 and the model's canonical form: every step keeps MEM a list of rising addresses below 4096 with no
entry equal to what the address reads as when unlisted. -/
def Obligations.StepKeepsMemoryCanonical : Prop :=
  ∀ s t : State, memCanonical s → step s = .next t → memCanonical t

/-- 10_state.md R31 (the spec's decision D9): every step keeps RUN = halted exactly when FAULT is not none. -/
def Obligations.StepKeepsFaultMatchesRun : Prop :=
  ∀ s t : State, faultMatchesRun s → step s = .next t → faultMatchesRun t

/-- 43_display.md R150: every step keeps every cell at 0, 0xFF or 0xF7 - 8k. -/
def Obligations.StepKeepsIntensitiesLegal : Prop :=
  ∀ s t : State, fbLegal s → step s = .next t → fbLegal t

/-- 30_encoding.md R91: every step keeps PC at most 0x10FE and every return address at most 0x1000, so no STEP wraps
PC. -/
def Obligations.StepKeepsPcBounded : Prop :=
  ∀ s t : State, pcBounded s → step s = .next t → pcBounded t

/-- 10_state.md R30 and the spec's decision D8: every step keeps STACK within STACK_DEPTH where it is finite. -/
def Obligations.StepKeepsStackWithinDepth : Prop :=
  ∀ s t : State, stackBounded s → step s = .next t → stackBounded t

/-- 10_state.md R37: the state after reset meets the five invariants. -/
def Obligations.ResetMeetsInvariants : Prop :=
  memCanonical State.reset ∧ faultMatchesRun State.reset ∧ fbLegal State.reset ∧ pcBounded State.reset ∧
  stackBounded State.reset

/-- 00_scope.md R10: no step changes STACK_DEPTH or FONT (model's choice to carry them in State, log 4, 5). -/
def Obligations.StepKeepsParameters : Prop :=
  ∀ s t : State, step s = .next t → t.params = s.params

/-! ## Who writes what -/

/-- 10_state.md R27: COMPAT is written only by LOAD, with its input, and read only by BNNN, 8XY6 and 8XYE: no other
operation changes it, and whatever it is, any other instruction, the fetch and decode of a STEP, TICK, FADE, FBREAD and
LOAD do the same. -/
def Obligations.CompatWrittenByLoadReadByThree : Prop :=
  (∀ (op : Operation) (s t : State) (r : OpResult), (∀ image compat, op ≠ .load image compat) →
    applyOp op s = .next (t, r) → t.compat = s.compat) ∧
  (∀ (image : List Byte) (compat old : Bool) (s t : State), image.length ≤ 3583 → loadOp image compat s = .next t →
    t.compat = compat ∧ loadOp image compat { s with compat := old } = .next t) ∧
  (∀ (i : Instr) (s t : State) (compat : Bool), ¬ readsCompat i → exec i s = .next t →
    exec i { s with compat := compat } = .next { t with compat := compat }) ∧
  (∀ (inputs : StepInputs) (s t : State) (r : OpResult) (compat : Bool),
    (∀ i, fetchable s → decodeWord (wordAtPc s) = .ok i → ¬ readsCompat i) →
    applyOp (.step inputs) s = .next (t, r) →
    applyOp (.step inputs) { s with compat := compat } = .next ({ t with compat := compat }, r)) ∧
  (∀ (op : Operation) (s t : State) (r : OpResult) (compat : Bool), op = .tick ∨ op = .fade ∨ op = .fbread →
    applyOp op s = .next (t, r) → applyOp op { s with compat := compat } = .next ({ t with compat := compat }, r))

/-- 10_state.md R26, R28, R29, R30, R33, 20_memory.md R50: no instruction but the named ones writes I, DT, ST, STACK,
MEM or FB, and none writes COMPAT, the parameters or the model's own fields. -/
def Obligations.OnlyNamedInstructionsWrite : Prop :=
  ∀ (i : Instr) (s t : State), exec i s = .next t →
    (t.i ≠ s.i → (∃ nnn, i = .ldI nnn) ∨ ∃ x, i = .addI x ∨ i = .ldF x ∨ i = .save x ∨ i = .load x) ∧
    (t.dt ≠ s.dt → ∃ x, i = .ldDtVx x) ∧
    (t.st ≠ s.st → ∃ x, i = .ldStVx x) ∧
    (t.stack ≠ s.stack → i = .ret ∨ ∃ nnn, i = .call nnn) ∧
    (t.mem ≠ s.mem → ∃ x, i = .ldB x ∨ i = .save x) ∧
    (t.fb ≠ s.fb → i = .cls ∨ ∃ x y n, i = .drw x y n) ∧
    t.compat = s.compat ∧ t.params = s.params ∧ t.inputs = s.inputs ∧ t.driver = s.driver ∧ t.draws = s.draws

/-- 10_state.md R23, R24: no instruction changes a register but its destinations and, where it writes a flag, VF; and a
flag write leaves exactly 0 or 1 in VF. That 7XNN writes a flag is the spec's decision D14 (log 13). -/
def Obligations.OnlyDestinationsAndFlagChange : Prop :=
  ∀ (i : Instr) (s t : State), exec i s = .next t →
    (∀ r : RegIx, t.reg r ≠ s.reg r → writesReg i r ∨ (writesFlag i ∧ r = 0xF#4)) ∧
    (writesFlag i → s.run = .running → t.run = .running → t.reg 0xF#4 = 0#8 ∨ t.reg 0xF#4 = 1#8)

/-! ## ALU instructions -/

/-- 42_alu.md R120: the result and the flag of each of the nine operations, on numbers. -/
def Obligations.AluComputesTheSpecTable : Prop :=
  ∀ (lhs rhs : Byte) (compat : Bool),
    alu lhs rhs .set compat = (rhs, none) ∧
    alu lhs rhs .or compat = (BitVec.ofNat 8 (lhs.toNat ||| rhs.toNat), none) ∧
    alu lhs rhs .and compat = (BitVec.ofNat 8 (lhs.toNat &&& rhs.toNat), none) ∧
    alu lhs rhs .xor compat = (BitVec.ofNat 8 (lhs.toNat ^^^ rhs.toNat), none) ∧
    alu lhs rhs .add compat =
      (BitVec.ofNat 8 ((lhs.toNat + rhs.toNat) % 256), some (decide (255 < lhs.toNat + rhs.toNat))) ∧
    alu lhs rhs .sub compat =
      (BitVec.ofInt 8 (((lhs.toNat : Int) - rhs.toNat) % 256), some (decide (rhs.toNat ≤ lhs.toNat))) ∧
    alu lhs rhs .subRev compat =
      (BitVec.ofInt 8 (((rhs.toNat : Int) - lhs.toNat) % 256), some (decide (lhs.toNat ≤ rhs.toNat))) ∧
    alu lhs rhs .shl compat =
      (BitVec.ofNat 8 ((if compat then rhs else lhs).toNat * 2 % 256),
        some (decide (128 ≤ (if compat then rhs else lhs).toNat))) ∧
    alu lhs rhs .shr compat =
      (BitVec.ofNat 8 ((if compat then rhs else lhs).toNat / 2),
        some (decide ((if compat then rhs else lhs).toNat % 2 = 1)))

/-- 42_alu.md R121: every ALU instruction reads its operands, writes the result to V[x], then the flag, if the operation
defines one, to VF, so that the flag wins when x = 0xF; nothing else changes. That 7XNN, one of the
eleven, has a flag is the spec's decision D14 (log 13). -/
def Obligations.AluWriteBackOrder : Prop :=
  ∀ (i : Instr) (op : AluOp) (x : RegIx) (o : Operand) (s : State) (rhs res : Byte) (flag : Option Bool),
    aluForm i = some (op, x, o) → rhs = (match o with | .imm nn => nn | .reg y => s.reg y) →
    alu (s.reg x) rhs op s.compat = (res, flag) →
    ∃ t, exec i s = .next t ∧ onlyRegs s t ∧
      ∀ r : RegIx, t.reg r =
        if r = 0xF#4 ∧ flag = some true then 1#8
        else if r = 0xF#4 ∧ flag = some false then 0#8
        else if r = x then res
        else s.reg r

/-- 42_alu.md R122, R124: LD Vx, nn and LD Vx, Vy write V[x] and nothing else, no flag. -/
def Obligations.LoadImmediateAndMove : Prop :=
  ∀ (x y : RegIx) (nn : Byte) (s : State),
    (∃ t, exec (.ldImm x nn) s = .next t ∧ t.reg x = nn ∧ sameRegsExcept [x] s t ∧ onlyRegs s t) ∧
    (∃ t, exec (.ldReg x y) s = .next t ∧ t.reg x = s.reg y ∧ sameRegsExcept [x] s t ∧ onlyRegs s t)

/-- 42_alu.md R125, R126, R127: OR, AND and XOR write the bitwise result to V[x], bit by bit, and nothing else, no
flag. -/
def Obligations.BitwiseInstructions : Prop :=
  ∀ (x y : RegIx) (s : State),
    (∃ t, exec (.orReg x y) s = .next t ∧ sameRegsExcept [x] s t ∧ onlyRegs s t ∧
      ∀ k < 8, (t.reg x).getLsbD k = ((s.reg x).getLsbD k || (s.reg y).getLsbD k)) ∧
    (∃ t, exec (.andReg x y) s = .next t ∧ sameRegsExcept [x] s t ∧ onlyRegs s t ∧
      ∀ k < 8, (t.reg x).getLsbD k = ((s.reg x).getLsbD k && (s.reg y).getLsbD k)) ∧
    (∃ t, exec (.xorReg x y) s = .next t ∧ sameRegsExcept [x] s t ∧ onlyRegs s t ∧
      ∀ k < 8, (t.reg x).getLsbD k = ((s.reg x).getLsbD k ^^ (s.reg y).getLsbD k))

/-- 42_alu.md R128: ADD Vx, Vy: the sum modulo 256 in V[x], then the carry in VF, which wins when x = 0xF. -/
def Obligations.AddRegister : Prop :=
  ∀ (x y : RegIx) (s : State),
    ∃ t, exec (.addReg x y) s = .next t ∧ sameRegsExcept [x, 0xF#4] s t ∧ onlyRegs s t ∧
      (x ≠ 0xF#4 → (t.reg x).toNat = ((s.reg x).toNat + (s.reg y).toNat) % 256) ∧
      (t.reg 0xF#4).toNat = if (s.reg x).toNat + (s.reg y).toNat > 255 then 1 else 0

/-- 42_alu.md section 2 and the spec's decision D14 (log 13): ADD Vx, nn: the sum modulo 256 in V[x], then the carry in
VF. -/
def Obligations.AddImmediateWritesCarry : Prop :=
  ∀ (x : RegIx) (nn : Byte) (s : State),
    ∃ t, exec (.addImm x nn) s = .next t ∧ sameRegsExcept [x, 0xF#4] s t ∧ onlyRegs s t ∧
      (x ≠ 0xF#4 → (t.reg x).toNat = ((s.reg x).toNat + nn.toNat) % 256) ∧
      (t.reg 0xF#4).toNat = if (s.reg x).toNat + nn.toNat > 255 then 1 else 0

/-- 42_alu.md R129, R131: SUB and SUBN: the difference modulo 256 in V[x], then 1 in VF when no borrow occurred, the
equal case included. -/
def Obligations.SubtractInstructions : Prop :=
  ∀ (x y : RegIx) (s : State),
    (∃ t, exec (.sub x y) s = .next t ∧ sameRegsExcept [x, 0xF#4] s t ∧ onlyRegs s t ∧
      (x ≠ 0xF#4 → ((t.reg x).toNat : Int) = (((s.reg x).toNat : Int) - (s.reg y).toNat) % 256) ∧
      (t.reg 0xF#4).toNat = if (s.reg x).toNat ≥ (s.reg y).toNat then 1 else 0) ∧
    (∃ t, exec (.subn x y) s = .next t ∧ sameRegsExcept [x, 0xF#4] s t ∧ onlyRegs s t ∧
      (x ≠ 0xF#4 → ((t.reg x).toNat : Int) = (((s.reg y).toNat : Int) - (s.reg x).toNat) % 256) ∧
      (t.reg 0xF#4).toNat = if (s.reg y).toNat ≥ (s.reg x).toNat then 1 else 0)

/-- 42_alu.md R130, R132: SHR and SHL shift V[y] in compatibility mode and V[x] otherwise by one; VF receives the bit
shifted out. -/
def Obligations.ShiftInstructions : Prop :=
  ∀ (x y : RegIx) (s : State) (o : Byte), o = (if s.compat then s.reg y else s.reg x) →
    (∃ t, exec (.shr x y) s = .next t ∧ sameRegsExcept [x, 0xF#4] s t ∧ onlyRegs s t ∧
      (x ≠ 0xF#4 → (t.reg x).toNat = o.toNat / 2) ∧ (t.reg 0xF#4).toNat = o.toNat % 2) ∧
    (∃ t, exec (.shl x y) s = .next t ∧ sameRegsExcept [x, 0xF#4] s t ∧ onlyRegs s t ∧
      (x ≠ 0xF#4 → (t.reg x).toNat = o.toNat * 2 % 256) ∧ (t.reg 0xF#4).toNat = o.toNat / 128)

/-! ## Control transfer -/

/-- 41_control_flow.md R100: JP nnn sets PC to the 12-bit immediate and nothing else; a target above 0xFFE faults at the
next Fetch. -/
def Obligations.JumpAbsolute : Prop :=
  ∀ (nnn : Addr) (s : State),
    ∃ t, exec (.jp nnn) s = .next t ∧ t.pc.toNat = nnn.toNat ∧ onlyPc s t ∧
      (0xFFE < nnn.toNat → fetch t = .error (.memoryOutOfRange 0x1000 .fetch))

/-- 41_control_flow.md R104: JP V0, nnn adds V0 in compatibility mode, else Vx with x the top nibble of nnn; the sum does
not wrap, and one above 0xFFE faults at the next Fetch. -/
def Obligations.JumpWithOffset : Prop :=
  ∀ (nnn : Addr) (s : State),
    ∃ t, exec (.jpV0 nnn) s = .next t ∧ onlyPc s t ∧
      t.pc.toNat = nnn.toNat + (s.reg (if s.compat then 0#4 else BitVec.ofNat 4 (nnn.toNat / 256))).toNat ∧
      (0xFFE < t.pc.toNat → fetch t = .error (.memoryOutOfRange (max t.pc.toNat 0x1000) .fetch))

/-- 41_control_flow.md section 1 and the spec's decisions D8 and D7 (log 5, 14): CALL pushes PC, the call's address + 2,
and jumps; on a full finite stack it raises StackOverflow (D8) with the call's address, and PC is again the call's
address and nothing but RUN and FAULT differs (D7). That a STACK longer than the depth, which no run reaches, counts as
full is the model's choice (log 5). -/
def Obligations.CallSubroutine : Prop :=
  ∀ (nnn : Addr) (s : State),
    ((∀ depth, s.params.stackDepth = some depth → s.stack.length < depth) →
      ∃ t, exec (.call nnn) s = .next t ∧ t.pc.toNat = nnn.toNat ∧ t = { s with pc := t.pc, stack := s.stack ++ [s.pc] }) ∧
    (∀ depth, s.params.stackDepth = some depth → depth ≤ s.stack.length →
      ∃ t, exec (.call nnn) s = .next t ∧ raisedFrom (.stackOverflow (s.pc - 2#16)) s t)

/-- 41_control_flow.md R102: RET pops the last pushed address into PC; on an empty stack it raises StackUnderflow with
its own address. -/
def Obligations.ReturnFromSubroutine : Prop :=
  ∀ s : State,
    (∀ (a : Word) (below : List Word), s.stack = below ++ [a] →
      exec .ret s = .next { s with pc := a, stack := below }) ∧
    (s.stack = [] → ∃ t, exec .ret s = .next t ∧ raisedFrom (.stackUnderflow (s.pc - 2#16)) s t)

/-- 41_control_flow.md R101, R102 together: a subroutine that leaves STACK as it found it returns to the instruction
after its CALL, with the caller's STACK. -/
def Obligations.CallThenReturnResumes : Prop :=
  ∀ (nnn : Addr) (s t u : State), s.stackFull = false → exec (.call nnn) s = .next t → u.stack = t.stack →
    ∃ w, exec .ret u = .next w ∧ w.pc = s.pc ∧ w.stack = s.stack

/-- 41_control_flow.md R105, R106, R107, R108: the four register skips move PC by 2 more exactly when the bytes are
equal, or not equal, and change nothing else. -/
def Obligations.RegisterSkips : Prop :=
  ∀ (x y : RegIx) (nn : Byte) (s : State),
    exec (.seImm x nn) s =
      .next { s with pc := if (s.reg x).toNat = nn.toNat then s.pc + 2#16 else s.pc } ∧
    exec (.sneImm x nn) s =
      .next { s with pc := if (s.reg x).toNat = nn.toNat then s.pc else s.pc + 2#16 } ∧
    exec (.seReg x y) s =
      .next { s with pc := if (s.reg x).toNat = (s.reg y).toNat then s.pc + 2#16 else s.pc } ∧
    exec (.sneReg x y) s =
      .next { s with pc := if (s.reg x).toNat = (s.reg y).toNat then s.pc else s.pc + 2#16 }

/-- 45_timers_keys_random.md R193, R194, R195: SKP and SKNP test the key that the low nibble of V[x] names, whatever the
high nibble, and change nothing but PC. -/
def Obligations.KeySkips : Prop :=
  ∀ (x : RegIx) (s : State) (pressed : Bool),
    pressed = s.inputs.keys.getLsbD ((s.reg x).toNat % 16) →
    exec (.skp x) s = .next { s with pc := if pressed then s.pc + 2#16 else s.pc } ∧
    exec (.sknp x) s = .next { s with pc := if pressed then s.pc else s.pc + 2#16 }

/-! ## Display -/

/-- 43_display.md R151: CLS clears every cell and changes nothing else. -/
def Obligations.ClearDisplay : Prop :=
  ∀ s : State, ∃ t, exec .cls s = .next t ∧ (∀ x y, cell t.fb x y = 0#8) ∧ t = { s with fb := t.fb }

/-- 43_display.md sections 3 (flip, collision, layout, clipping) and the spec's decisions D15, D22: where the n sprite
bytes are in memory, DXYN dims exactly the covered cells that were fully lit to 0xF7, lights the other covered cells,
leaves every other cell, writes VF = 1 exactly when a covered cell was fully lit and 0 otherwise (so 0 when n = 0), and
changes nothing else. -/
def Obligations.DrawMatchesPerCellForm : Prop :=
  ∀ (vx vy : RegIx) (n : Nibble) (s : State), (n.toNat = 0 ∨ s.i.toNat + n.toNat - 1 ≤ 0xFFF) →
    ∃ t, exec (.drw vx vy n) s = .next t ∧
      (∀ x y, spriteCovers s vx vy n x y →
        cell t.fb x y = if cell s.fb x y = 0xFF#8 then 0xF7#8 else 0xFF#8) ∧
      (∀ x y, ¬ spriteCovers s vx vy n x y → cell t.fb x y = cell s.fb x y) ∧
      ((∃ x y, spriteCovers s vx vy n x y ∧ cell s.fb x y = 0xFF#8) → t.reg 0xF#4 = 1#8) ∧
      ((∀ x y, spriteCovers s vx vy n x y → cell s.fb x y ≠ 0xFF#8) → t.reg 0xF#4 = 0#8) ∧
      sameRegsExcept [0xF#4] s t ∧ t = { s with v := t.v, fb := t.fb }

/-- 43_display.md section 3 and the spec's decisions D6, D7, D22: DXYN with n at least 1 and a last sprite byte above
0xFFF raises MemoryOutOfRange (read) at max(I, 0x1000) before any cell or VF changes, also where the rows are
clipped. -/
def Obligations.DrawPastMemoryHalts : Prop :=
  ∀ (vx vy : RegIx) (n : Nibble) (s : State), 1 ≤ n.toNat → 0xFFF < s.i.toNat + n.toNat - 1 →
    ∃ t, exec (.drw vx vy n) s = .next t ∧ raisedFrom (.memoryOutOfRange (max s.i.toNat 0x1000) .read) s t

/-- 43_display.md R157: FADE, on a running machine only, lowers every cell strictly between 0 and 0xFF by 8, floored at
0, and changes nothing else. -/
def Obligations.FadeLowersFadingCells : Prop :=
  ∀ s : State,
    (s.run = .running → ∃ t, fadeOp s = .next t ∧ t = { s with fb := t.fb } ∧
      ∀ x y, ((cell t.fb x y).toNat : Int) =
        if 0 < (cell s.fb x y).toNat ∧ (cell s.fb x y).toNat < 255 then max (((cell s.fb x y).toNat : Int) - 8) 0
        else (cell s.fb x y).toNat) ∧
    (s.run ≠ .running → ∀ t, fadeOp s ≠ .next t)

/-- 43_display.md R158: a cell turned off by a collision holds 0xF7 - 8k after k FADEs for k up to 30, and 0 from 31
on; a flip after any number of FADEs makes it 0xFF with no collision. -/
def Obligations.FadeTrajectory : Prop :=
  ∀ (fb : Framebuffer) (x : Fin 64) (y : Fin 32) (k : Nat), cell fb x y = 0xFF#8 →
    (cell (fadeFb^[k] (flip (fb, false) x y).1) x y).toNat = (if k ≤ 30 then 0xF7 - 8 * k else 0) ∧
    (flip (fadeFb^[k] (flip (fb, false) x y).1, false) x y).2 = false ∧
    cell (flip (fadeFb^[k] (flip (fb, false) x y).1, false) x y).1 x y = 0xFF#8

/-- 10_state.md R33, 43_display.md R159: FBREAD gives 2048 cells, the one at index y * 64 + x being FB[x, y], and changes
nothing. -/
def Obligations.FbreadIsRowMajor : Prop :=
  ∀ s : State, s.run ≠ .unloaded →
    ∃ cells, fbreadOp s = .next (s, .cells cells) ∧ cells.length = 2048 ∧
      ∀ (x : Fin 64) (y : Fin 32), cells[(y : Nat) * 64 + x]? = some (cell s.fb x y)

/-! ## Index register and memory -/

/-- 44_index_memory.md R170, R171: LD I, nnn sets I; ADD I, Vx adds modulo 2^16; both change nothing else, VF
included. -/
def Obligations.IndexSetAndAdd : Prop :=
  ∀ (nnn : Addr) (x : RegIx) (s : State),
    (∃ t, exec (.ldI nnn) s = .next t ∧ t.i.toNat = nnn.toNat ∧ onlyIndex s t) ∧
    (∃ t, exec (.addI x) s = .next t ∧ t.i.toNat = (s.i.toNat + (s.reg x).toNat) % 65536 ∧ onlyIndex s t)

/-- 44_index_memory.md and the spec's decision D13 (log 15): LD F, Vx sets I to 0x050 + 5 V[x], unmasked also above 15,
and changes nothing else. -/
def Obligations.IndexOfFontGlyph : Prop :=
  ∀ (x : RegIx) (s : State),
    ∃ t, exec (.ldF x) s = .next t ∧ t.i.toNat = 0x050 + (s.reg x).toNat * 5 ∧ onlyIndex s t

/-- 44_index_memory.md R173: LD B, Vx writes the three decimal digits at I, I + 1, I + 2 and changes no other byte, no
register and not I; where I is above 0xFFD it raises MemoryOutOfRange (write) and writes nothing. -/
def Obligations.DecimalDecompose : Prop :=
  ∀ (x : RegIx) (s : State), memCanonical s →
    (s.i.toNat ≤ 0xFFD → ∃ t, exec (.ldB x) s = .next t ∧ onlyMem s t ∧
      (t.byteAt s.i.toNat).toNat = (s.reg x).toNat / 100 ∧
      (t.byteAt (s.i.toNat + 1)).toNat = (s.reg x).toNat / 10 % 10 ∧
      (t.byteAt (s.i.toNat + 2)).toNat = (s.reg x).toNat % 10 ∧
      sameBytesOutside s.i.toNat 3 s t) ∧
    (0xFFD < s.i.toNat → ∃ t, exec (.ldB x) s = .next t ∧
      raisedFrom (.memoryOutOfRange (max s.i.toNat 0x1000) .write) s t)

/-- 44_index_memory.md R174: LD [I], Vx stores V0..Vx at I.. and advances I by x + 1; it changes no other byte and no
register; where I + x is above 0xFFF it raises MemoryOutOfRange (write) and writes nothing. -/
def Obligations.SaveRegisters : Prop :=
  ∀ (x : RegIx) (s : State), memCanonical s →
    (s.i.toNat + x.toNat ≤ 0xFFF → ∃ t, exec (.save x) s = .next t ∧ t = { s with mem := t.mem, i := t.i } ∧
      t.i.toNat = s.i.toNat + x.toNat + 1 ∧
      (∀ r : RegIx, r.toNat ≤ x.toNat → t.byteAt (s.i.toNat + r.toNat) = s.reg r) ∧
      sameBytesOutside s.i.toNat (x.toNat + 1) s t) ∧
    (0xFFF < s.i.toNat + x.toNat → ∃ t, exec (.save x) s = .next t ∧
      raisedFrom (.memoryOutOfRange (max s.i.toNat 0x1000) .write) s t)

/-- 44_index_memory.md R175: LD Vx, [I] loads V0..Vx from I.. and advances I by x + 1; registers above x and everything
else stay; where I + x is above 0xFFF it raises MemoryOutOfRange (read) and loads nothing. -/
def Obligations.LoadRegisters : Prop :=
  ∀ (x : RegIx) (s : State),
    (s.i.toNat + x.toNat ≤ 0xFFF → ∃ t, exec (.load x) s = .next t ∧ t = { s with v := t.v, i := t.i } ∧
      t.i.toNat = s.i.toNat + x.toNat + 1 ∧
      (∀ r : RegIx, r.toNat ≤ x.toNat → t.reg r = s.byteAt (s.i.toNat + r.toNat)) ∧
      (∀ r : RegIx, x.toNat < r.toNat → t.reg r = s.reg r)) ∧
    (0xFFF < s.i.toNat + x.toNat → ∃ t, exec (.load x) s = .next t ∧
      raisedFrom (.memoryOutOfRange (max s.i.toNat 0x1000) .read) s t)

/-- 95_test_vectors.md S5, 44_index_memory.md R174, R175: saving V0..Vx and loading them from the same index restores
them, whatever the registers held in between; both advance I by x + 1. -/
def Obligations.SaveThenLoadRestores : Prop :=
  ∀ (x : RegIx) (s t u : State), memCanonical s → s.i.toNat + x.toNat ≤ 0xFFF → exec (.save x) s = .next t →
    u.mem = t.mem → u.params = t.params → u.i = s.i →
    t.i.toNat = s.i.toNat + x.toNat + 1 ∧
    ∃ w, exec (.load x) u = .next w ∧ w.i.toNat = s.i.toNat + x.toNat + 1 ∧
      ∀ r : RegIx, r.toNat ≤ x.toNat → w.reg r = s.reg r

/-- 20_memory.md R60: a store is seen by the next fetch, at every address that can be fetched: after FX55 or FX33 the word
fetched at `a` is made of the bytes stored, where `a` or `a + 1` is among the stored addresses, and of the old bytes
elsewhere. -/
def Obligations.StoreIsSeenByFetch : Prop :=
  ∀ (x : RegIx) (s : State), memCanonical s →
    (s.i.toNat + x.toNat ≤ 0xFFF → ∃ t, exec (.save x) s = .next t ∧ ∀ a : Word, a.toNat ≤ 0xFFE →
      fetch { t with pc := a } = .ok (byteAfterSave s x a.toNat ++ byteAfterSave s x (a.toNat + 1))) ∧
    (s.i.toNat ≤ 0xFFD → ∃ t, exec (.ldB x) s = .next t ∧ ∀ a : Word, a.toNat ≤ 0xFFE →
      fetch { t with pc := a } = .ok (byteAfterDecimal s x a.toNat ++ byteAfterDecimal s x (a.toNat + 1)))

/-! ## Timers, keys, random -/

/-- 45_timers_keys_random.md section 1: the three timer moves copy one byte and change nothing else; what FX18
wrote is reported by the next TICK, which answers whether ST was above 1. -/
def Obligations.TimerMoves : Prop :=
  ∀ (x : RegIx) (s : State),
    (∃ t, exec (.ldVxDt x) s = .next t ∧ t.reg x = s.dt ∧ sameRegsExcept [x] s t ∧ onlyRegs s t) ∧
    (∃ t, exec (.ldDtVx x) s = .next t ∧ t.dt = s.reg x ∧ t = { s with dt := t.dt }) ∧
    (∃ t, exec (.ldStVx x) s = .next t ∧ t.st = s.reg x ∧ t = { s with st := t.st } ∧
      (s.run = .running → tickOp t = .next (t.tick, .sound (decide (1 < (s.reg x).toNat)))))

/-- 60_exceptions.md R225: TICK, on a running machine only, lowers both timers by one, floored at 0, answers whether ST
is nonzero after that, and touches nothing else. -/
def Obligations.TickCountsDown : Prop :=
  ∀ s : State,
    (s.run = .running → ∃ t on, tickOp s = .next (t, .sound on) ∧
      t.dt.toNat = (if s.dt.toNat > 0 then s.dt.toNat - 1 else 0) ∧
      t.st.toNat = (if s.st.toNat > 0 then s.st.toNat - 1 else 0) ∧
      (on = true ↔ t.st.toNat ≠ 0) ∧ t = { s with dt := t.dt, st := t.st }) ∧
    (s.run ≠ .running → ∀ t, tickOp s ≠ .next t)

/-- 45_timers_keys_random.md section 2 and the spec's decision D12 (the input's raw choice made a member: log 11): FX0A
with no key pressed moves PC back to itself and changes nothing else; with a key pressed it writes a pressed key to
V[x], and every pressed key is the one written for some choice. -/
def Obligations.WaitForKey : Prop :=
  ∀ (x : RegIx) (s : State),
    (s.inputs.keys = 0#16 → exec (.ldVxK x) s = .next { s with pc := s.pc - 2#16 }) ∧
    (s.inputs.keys ≠ 0#16 → ∃ t, exec (.ldVxK x) s = .next t ∧ sameRegsExcept [x] s t ∧ onlyRegs s t ∧
      (t.reg x).toNat < 16 ∧ s.inputs.keys.getLsbD (t.reg x).toNat = true ∧
      (s.inputs.keys.getLsbD s.inputs.keyChoice.toNat = true → (t.reg x).toNat = s.inputs.keyChoice.toNat))

/-- 45_timers_keys_random.md section 3 and the spec's decision D11 (log 10): CXNN writes the STEP's random byte AND nn to
V[x], for every random byte, so the bits outside nn are 0; nothing else changes. -/
def Obligations.RandomAndMask : Prop :=
  ∀ (x : RegIx) (nn : Byte) (s : State),
    ∃ t, exec (.rnd x nn) s = .next t ∧ sameRegsExcept [x] s t ∧ onlyRegs s t ∧
      ∀ k < 8, (t.reg x).getLsbD k = (s.inputs.rnd.getLsbD k && nn.getLsbD k)

/-! ## LOAD -/

/-- 70_reset_and_hazards.md section 1, 10_state.md section 9 and the spec's decision D2 (log 3): LOAD of an image that
fits, in any RUN state, sets every element: the image from 0x200, the font at 0x050..0x09F, 0 elsewhere. -/
def Obligations.LoadSetsEveryElement : Prop :=
  ∀ (image : List Byte) (compat : Bool) (s : State), image.length ≤ 3583 →
    ∃ t, loadOp image compat s = .next t ∧
      (∀ r : RegIx, t.reg r = 0#8) ∧ t.i = 0#16 ∧ t.pc = 0x200#16 ∧ t.dt = 0#8 ∧ t.st = 0#8 ∧ t.stack = [] ∧
      t.compat = compat ∧ (∀ x y, cell t.fb x y = 0#8) ∧ t.run = .running ∧ t.fault = none ∧
      (∀ k (h : k < image.length), t.byteAt (0x200 + k) = image[k]) ∧
      (∀ k (h : k < 80), t.byteAt (0x050 + k) = s.params.font[k]) ∧
      (∀ a, a < 0x050 ∨ (0x0A0 ≤ a ∧ a < 0x200) ∨ 0x200 + image.length ≤ a → t.byteAt a = 0#8) ∧
      t.params = s.params ∧ t.inputs = s.inputs ∧ t.driver = s.driver ∧ t.draws = s.draws

/-- 70_reset_and_hazards.md section 1 and the spec's decision D4 (log 17): LOAD of an image longer than 3583 bytes halts
with ImageTooLarge and the length, and writes no other element. -/
def Obligations.OversizeLoadHalts : Prop :=
  ∀ (image : List Byte) (compat : Bool) (s : State), 3583 < image.length →
    ∃ t, loadOp image compat s = .next t ∧ haltedWith (.imageTooLarge image.length) s t

/-- 10_state.md section 9, 70_reset_and_hazards.md section 2: the reset state is what LOAD of the empty image leaves
(model's choice of the image and of COMPAT = false, log 1, 2; the zero values are the spec's decision D2, log 3), and a
STEP from it raises UnrecognizedInstruction for the word 0x0000 at 0x200, with PC still 0x200 (the spec's decision D7, log
14). -/
def Obligations.ResetIsLoadOfEmptyImage : Prop :=
  (∀ s : State, loadOp [] false s =
    .next { State.reset with params := s.params, inputs := s.inputs, driver := s.driver, draws := s.draws }) ∧
  ∀ inputs : StepInputs, ∃ t, stepOp inputs State.reset = .next t ∧ t.run = .halted ∧ t.pc = 0x200#16 ∧
    t.fault = some (.unrecognizedInstruction 0x0000#16 0x200#16)
end

