-- ==== Sys2Proof/Laws/Compositor.lean ====
section
/-! SUPPORT. Sys2Proof/Laws/Compositor.lean: the small laws of the framebuffer operations. -/

namespace Sys2Proof.Machine

/-- A cell after a cell write. -/
theorem cell_setCell (fb : Framebuffer) (x a : Fin 64) (y b : Fin 32) (c : Byte) :
    cell (setCell fb x y c) a b = if a = x ∧ b = y then c else cell fb a b := by
  simp only [cell, setCell, Fin.getElem_fin, Vector.getElem_set]
  by_cases hy : (y : Nat) = b
  · have hb : b = y := Fin.ext hy.symm
    subst hb
    by_cases hx : (x : Nat) = a
    · have ha : a = x := Fin.ext hx.symm
      subst ha; simp
    · have ha : a ≠ x := fun e => hx (by rw [e])
      simp [hx, ha]
  · have hb : b ≠ y := fun e => hy (by rw [e])
    simp [hy, hb]

/-- Two framebuffers with the same cells are equal. -/
theorem fb_ext {f g : Framebuffer} (h : ∀ (x : Fin 64) (y : Fin 32), cell f x y = cell g x y) : f = g := by
  apply Vector.ext
  intro j hj
  apply Vector.ext
  intro i hi
  exact h ⟨i, hi⟩ ⟨j, hj⟩

/-- Every cell of the cleared framebuffer is 0. -/
@[simp] theorem cell_blankFb (x : Fin 64) (y : Fin 32) : cell blankFb x y = 0#8 := by
  simp [cell, blankFb]

/-- FADE works cell by cell. -/
@[simp] theorem cell_fadeFb (fb : Framebuffer) (x : Fin 64) (y : Fin 32) :
    cell (fadeFb fb) x y = fadeCell (cell fb x y) := by
  simp [cell, fadeFb]

/-- A cell after a flip. -/
theorem cell_flip (acc : Framebuffer × Bool) (x a : Fin 64) (y b : Fin 32) :
    cell (flip acc x y).1 a b =
      if a = x ∧ b = y then (if cell acc.1 x y = 0xFF#8 then 0xF7#8 else 0xFF#8) else cell acc.1 a b := by
  have hd : Config.lit - Config.fadeRate = 0xF7#8 := rfl
  by_cases h : cell acc.1 x y = 0xFF#8 <;> simp [flip, h, cell_setCell, hd]

/-- The collision so far after a flip. -/
theorem flip_hit (acc : Framebuffer × Bool) (x : Fin 64) (y : Fin 32) :
    (flip acc x y).2 = (acc.2 || decide (cell acc.1 x y = 0xFF#8)) := by
  by_cases h : cell acc.1 x y = 0xFF#8 <;> simp [flip, h]

end Sys2Proof.Machine
end

