-- ==== Sys2Proof/Laws/State.lean ====
section
/-! SUPPORT. Sys2Proof/Laws/State.lean: one lemma per field per update of State, true by rfl, so that no proof unfolds a
record update; and the register read after each register write. -/

namespace Sys2Proof.Machine

/-! ### setReg -/

@[simp] theorem State.setReg_v (s : State) (x : RegIx) (b : Byte) : (s.setReg x b).v = s.v.set x.toNat b x.isLt := rfl
@[simp] theorem State.setReg_i (s : State) (x : RegIx) (b : Byte) : (s.setReg x b).i = s.i := rfl
@[simp] theorem State.setReg_pc (s : State) (x : RegIx) (b : Byte) : (s.setReg x b).pc = s.pc := rfl
@[simp] theorem State.setReg_dt (s : State) (x : RegIx) (b : Byte) : (s.setReg x b).dt = s.dt := rfl
@[simp] theorem State.setReg_st (s : State) (x : RegIx) (b : Byte) : (s.setReg x b).st = s.st := rfl
@[simp] theorem State.setReg_stack (s : State) (x : RegIx) (b : Byte) : (s.setReg x b).stack = s.stack := rfl
@[simp] theorem State.setReg_compat (s : State) (x : RegIx) (b : Byte) : (s.setReg x b).compat = s.compat := rfl
@[simp] theorem State.setReg_mem (s : State) (x : RegIx) (b : Byte) : (s.setReg x b).mem = s.mem := rfl
@[simp] theorem State.setReg_fb (s : State) (x : RegIx) (b : Byte) : (s.setReg x b).fb = s.fb := rfl
@[simp] theorem State.setReg_run (s : State) (x : RegIx) (b : Byte) : (s.setReg x b).run = s.run := rfl
@[simp] theorem State.setReg_fault (s : State) (x : RegIx) (b : Byte) : (s.setReg x b).fault = s.fault := rfl
@[simp] theorem State.setReg_params (s : State) (x : RegIx) (b : Byte) : (s.setReg x b).params = s.params := rfl
@[simp] theorem State.setReg_inputs (s : State) (x : RegIx) (b : Byte) : (s.setReg x b).inputs = s.inputs := rfl
@[simp] theorem State.setReg_driver (s : State) (x : RegIx) (b : Byte) : (s.setReg x b).driver = s.driver := rfl
@[simp] theorem State.setReg_draws (s : State) (x : RegIx) (b : Byte) : (s.setReg x b).draws = s.draws := rfl

/-! ### setFlag -/

@[simp] theorem State.setFlag_v (s : State) (b : Bool) : (s.setFlag b).v = s.v.set flagReg.toNat (flagByte b) flagReg.isLt := rfl
@[simp] theorem State.setFlag_i (s : State) (b : Bool) : (s.setFlag b).i = s.i := rfl
@[simp] theorem State.setFlag_pc (s : State) (b : Bool) : (s.setFlag b).pc = s.pc := rfl
@[simp] theorem State.setFlag_dt (s : State) (b : Bool) : (s.setFlag b).dt = s.dt := rfl
@[simp] theorem State.setFlag_st (s : State) (b : Bool) : (s.setFlag b).st = s.st := rfl
@[simp] theorem State.setFlag_stack (s : State) (b : Bool) : (s.setFlag b).stack = s.stack := rfl
@[simp] theorem State.setFlag_compat (s : State) (b : Bool) : (s.setFlag b).compat = s.compat := rfl
@[simp] theorem State.setFlag_mem (s : State) (b : Bool) : (s.setFlag b).mem = s.mem := rfl
@[simp] theorem State.setFlag_fb (s : State) (b : Bool) : (s.setFlag b).fb = s.fb := rfl
@[simp] theorem State.setFlag_run (s : State) (b : Bool) : (s.setFlag b).run = s.run := rfl
@[simp] theorem State.setFlag_fault (s : State) (b : Bool) : (s.setFlag b).fault = s.fault := rfl
@[simp] theorem State.setFlag_params (s : State) (b : Bool) : (s.setFlag b).params = s.params := rfl
@[simp] theorem State.setFlag_inputs (s : State) (b : Bool) : (s.setFlag b).inputs = s.inputs := rfl
@[simp] theorem State.setFlag_driver (s : State) (b : Bool) : (s.setFlag b).driver = s.driver := rfl
@[simp] theorem State.setFlag_draws (s : State) (b : Bool) : (s.setFlag b).draws = s.draws := rfl

/-! ### setByteAt -/

@[simp] theorem State.setByteAt_v (s : State) (a : Nat) (u : Byte) : (s.setByteAt a u).v = s.v := rfl
@[simp] theorem State.setByteAt_i (s : State) (a : Nat) (u : Byte) : (s.setByteAt a u).i = s.i := rfl
@[simp] theorem State.setByteAt_pc (s : State) (a : Nat) (u : Byte) : (s.setByteAt a u).pc = s.pc := rfl
@[simp] theorem State.setByteAt_dt (s : State) (a : Nat) (u : Byte) : (s.setByteAt a u).dt = s.dt := rfl
@[simp] theorem State.setByteAt_st (s : State) (a : Nat) (u : Byte) : (s.setByteAt a u).st = s.st := rfl
@[simp] theorem State.setByteAt_stack (s : State) (a : Nat) (u : Byte) : (s.setByteAt a u).stack = s.stack := rfl
@[simp] theorem State.setByteAt_compat (s : State) (a : Nat) (u : Byte) : (s.setByteAt a u).compat = s.compat := rfl
@[simp] theorem State.setByteAt_mem (s : State) (a : Nat) (u : Byte) : (s.setByteAt a u).mem = Memory.write s.params.font a u s.mem := rfl
@[simp] theorem State.setByteAt_fb (s : State) (a : Nat) (u : Byte) : (s.setByteAt a u).fb = s.fb := rfl
@[simp] theorem State.setByteAt_run (s : State) (a : Nat) (u : Byte) : (s.setByteAt a u).run = s.run := rfl
@[simp] theorem State.setByteAt_fault (s : State) (a : Nat) (u : Byte) : (s.setByteAt a u).fault = s.fault := rfl
@[simp] theorem State.setByteAt_params (s : State) (a : Nat) (u : Byte) : (s.setByteAt a u).params = s.params := rfl
@[simp] theorem State.setByteAt_inputs (s : State) (a : Nat) (u : Byte) : (s.setByteAt a u).inputs = s.inputs := rfl
@[simp] theorem State.setByteAt_driver (s : State) (a : Nat) (u : Byte) : (s.setByteAt a u).driver = s.driver := rfl
@[simp] theorem State.setByteAt_draws (s : State) (a : Nat) (u : Byte) : (s.setByteAt a u).draws = s.draws := rfl

/-! ### push -/

@[simp] theorem State.push_v (s : State) (a : Word) : (s.push a).v = s.v := rfl
@[simp] theorem State.push_i (s : State) (a : Word) : (s.push a).i = s.i := rfl
@[simp] theorem State.push_pc (s : State) (a : Word) : (s.push a).pc = s.pc := rfl
@[simp] theorem State.push_dt (s : State) (a : Word) : (s.push a).dt = s.dt := rfl
@[simp] theorem State.push_st (s : State) (a : Word) : (s.push a).st = s.st := rfl
@[simp] theorem State.push_stack (s : State) (a : Word) : (s.push a).stack = s.stack ++ [a] := rfl
@[simp] theorem State.push_compat (s : State) (a : Word) : (s.push a).compat = s.compat := rfl
@[simp] theorem State.push_mem (s : State) (a : Word) : (s.push a).mem = s.mem := rfl
@[simp] theorem State.push_fb (s : State) (a : Word) : (s.push a).fb = s.fb := rfl
@[simp] theorem State.push_run (s : State) (a : Word) : (s.push a).run = s.run := rfl
@[simp] theorem State.push_fault (s : State) (a : Word) : (s.push a).fault = s.fault := rfl
@[simp] theorem State.push_params (s : State) (a : Word) : (s.push a).params = s.params := rfl
@[simp] theorem State.push_inputs (s : State) (a : Word) : (s.push a).inputs = s.inputs := rfl
@[simp] theorem State.push_driver (s : State) (a : Word) : (s.push a).driver = s.driver := rfl
@[simp] theorem State.push_draws (s : State) (a : Word) : (s.push a).draws = s.draws := rfl

/-! ### advance -/

@[simp] theorem State.advance_v (s : State) : (s.advance).v = s.v := rfl
@[simp] theorem State.advance_i (s : State) : (s.advance).i = s.i := rfl
@[simp] theorem State.advance_pc (s : State) : (s.advance).pc = s.pc + 2#16 := rfl
@[simp] theorem State.advance_dt (s : State) : (s.advance).dt = s.dt := rfl
@[simp] theorem State.advance_st (s : State) : (s.advance).st = s.st := rfl
@[simp] theorem State.advance_stack (s : State) : (s.advance).stack = s.stack := rfl
@[simp] theorem State.advance_compat (s : State) : (s.advance).compat = s.compat := rfl
@[simp] theorem State.advance_mem (s : State) : (s.advance).mem = s.mem := rfl
@[simp] theorem State.advance_fb (s : State) : (s.advance).fb = s.fb := rfl
@[simp] theorem State.advance_run (s : State) : (s.advance).run = s.run := rfl
@[simp] theorem State.advance_fault (s : State) : (s.advance).fault = s.fault := rfl
@[simp] theorem State.advance_params (s : State) : (s.advance).params = s.params := rfl
@[simp] theorem State.advance_inputs (s : State) : (s.advance).inputs = s.inputs := rfl
@[simp] theorem State.advance_driver (s : State) : (s.advance).driver = s.driver := rfl
@[simp] theorem State.advance_draws (s : State) : (s.advance).draws = s.draws := rfl

/-! ### rewind -/

@[simp] theorem State.rewind_v (s : State) : (s.rewind).v = s.v := rfl
@[simp] theorem State.rewind_i (s : State) : (s.rewind).i = s.i := rfl
@[simp] theorem State.rewind_pc (s : State) : (s.rewind).pc = s.pc - 2#16 := rfl
@[simp] theorem State.rewind_dt (s : State) : (s.rewind).dt = s.dt := rfl
@[simp] theorem State.rewind_st (s : State) : (s.rewind).st = s.st := rfl
@[simp] theorem State.rewind_stack (s : State) : (s.rewind).stack = s.stack := rfl
@[simp] theorem State.rewind_compat (s : State) : (s.rewind).compat = s.compat := rfl
@[simp] theorem State.rewind_mem (s : State) : (s.rewind).mem = s.mem := rfl
@[simp] theorem State.rewind_fb (s : State) : (s.rewind).fb = s.fb := rfl
@[simp] theorem State.rewind_run (s : State) : (s.rewind).run = s.run := rfl
@[simp] theorem State.rewind_fault (s : State) : (s.rewind).fault = s.fault := rfl
@[simp] theorem State.rewind_params (s : State) : (s.rewind).params = s.params := rfl
@[simp] theorem State.rewind_inputs (s : State) : (s.rewind).inputs = s.inputs := rfl
@[simp] theorem State.rewind_driver (s : State) : (s.rewind).driver = s.driver := rfl
@[simp] theorem State.rewind_draws (s : State) : (s.rewind).draws = s.draws := rfl

/-! ### halt -/

@[simp] theorem State.halt_v (s : State) (f : Fatal) : (s.halt f).v = s.v := rfl
@[simp] theorem State.halt_i (s : State) (f : Fatal) : (s.halt f).i = s.i := rfl
@[simp] theorem State.halt_pc (s : State) (f : Fatal) : (s.halt f).pc = s.pc := rfl
@[simp] theorem State.halt_dt (s : State) (f : Fatal) : (s.halt f).dt = s.dt := rfl
@[simp] theorem State.halt_st (s : State) (f : Fatal) : (s.halt f).st = s.st := rfl
@[simp] theorem State.halt_stack (s : State) (f : Fatal) : (s.halt f).stack = s.stack := rfl
@[simp] theorem State.halt_compat (s : State) (f : Fatal) : (s.halt f).compat = s.compat := rfl
@[simp] theorem State.halt_mem (s : State) (f : Fatal) : (s.halt f).mem = s.mem := rfl
@[simp] theorem State.halt_fb (s : State) (f : Fatal) : (s.halt f).fb = s.fb := rfl
@[simp] theorem State.halt_run (s : State) (f : Fatal) : (s.halt f).run = .halted := rfl
@[simp] theorem State.halt_fault (s : State) (f : Fatal) : (s.halt f).fault = some f := rfl
@[simp] theorem State.halt_params (s : State) (f : Fatal) : (s.halt f).params = s.params := rfl
@[simp] theorem State.halt_inputs (s : State) (f : Fatal) : (s.halt f).inputs = s.inputs := rfl
@[simp] theorem State.halt_driver (s : State) (f : Fatal) : (s.halt f).driver = s.driver := rfl
@[simp] theorem State.halt_draws (s : State) (f : Fatal) : (s.halt f).draws = s.draws := rfl

/-! ### raise -/

@[simp] theorem State.raise_v (s : State) (f : Fatal) : (s.raise f).v = s.v := rfl
@[simp] theorem State.raise_i (s : State) (f : Fatal) : (s.raise f).i = s.i := rfl
@[simp] theorem State.raise_pc (s : State) (f : Fatal) : (s.raise f).pc = s.pc - 2#16 := rfl
@[simp] theorem State.raise_dt (s : State) (f : Fatal) : (s.raise f).dt = s.dt := rfl
@[simp] theorem State.raise_st (s : State) (f : Fatal) : (s.raise f).st = s.st := rfl
@[simp] theorem State.raise_stack (s : State) (f : Fatal) : (s.raise f).stack = s.stack := rfl
@[simp] theorem State.raise_compat (s : State) (f : Fatal) : (s.raise f).compat = s.compat := rfl
@[simp] theorem State.raise_mem (s : State) (f : Fatal) : (s.raise f).mem = s.mem := rfl
@[simp] theorem State.raise_fb (s : State) (f : Fatal) : (s.raise f).fb = s.fb := rfl
@[simp] theorem State.raise_run (s : State) (f : Fatal) : (s.raise f).run = .halted := rfl
@[simp] theorem State.raise_fault (s : State) (f : Fatal) : (s.raise f).fault = some f := rfl
@[simp] theorem State.raise_params (s : State) (f : Fatal) : (s.raise f).params = s.params := rfl
@[simp] theorem State.raise_inputs (s : State) (f : Fatal) : (s.raise f).inputs = s.inputs := rfl
@[simp] theorem State.raise_driver (s : State) (f : Fatal) : (s.raise f).driver = s.driver := rfl
@[simp] theorem State.raise_draws (s : State) (f : Fatal) : (s.raise f).draws = s.draws := rfl

/-! ### advanceIndex -/

@[simp] theorem State.advanceIndex_v (s : State) (x : RegIx) : (s.advanceIndex x).v = s.v := rfl
@[simp] theorem State.advanceIndex_i (s : State) (x : RegIx) : (s.advanceIndex x).i = s.i + x.setWidth 16 + 1#16 := rfl
@[simp] theorem State.advanceIndex_pc (s : State) (x : RegIx) : (s.advanceIndex x).pc = s.pc := rfl
@[simp] theorem State.advanceIndex_dt (s : State) (x : RegIx) : (s.advanceIndex x).dt = s.dt := rfl
@[simp] theorem State.advanceIndex_st (s : State) (x : RegIx) : (s.advanceIndex x).st = s.st := rfl
@[simp] theorem State.advanceIndex_stack (s : State) (x : RegIx) : (s.advanceIndex x).stack = s.stack := rfl
@[simp] theorem State.advanceIndex_compat (s : State) (x : RegIx) : (s.advanceIndex x).compat = s.compat := rfl
@[simp] theorem State.advanceIndex_mem (s : State) (x : RegIx) : (s.advanceIndex x).mem = s.mem := rfl
@[simp] theorem State.advanceIndex_fb (s : State) (x : RegIx) : (s.advanceIndex x).fb = s.fb := rfl
@[simp] theorem State.advanceIndex_run (s : State) (x : RegIx) : (s.advanceIndex x).run = s.run := rfl
@[simp] theorem State.advanceIndex_fault (s : State) (x : RegIx) : (s.advanceIndex x).fault = s.fault := rfl
@[simp] theorem State.advanceIndex_params (s : State) (x : RegIx) : (s.advanceIndex x).params = s.params := rfl
@[simp] theorem State.advanceIndex_inputs (s : State) (x : RegIx) : (s.advanceIndex x).inputs = s.inputs := rfl
@[simp] theorem State.advanceIndex_driver (s : State) (x : RegIx) : (s.advanceIndex x).driver = s.driver := rfl
@[simp] theorem State.advanceIndex_draws (s : State) (x : RegIx) : (s.advanceIndex x).draws = s.draws := rfl

/-! ### tick -/

@[simp] theorem State.tick_v (s : State) : (s.tick).v = s.v := rfl
@[simp] theorem State.tick_i (s : State) : (s.tick).i = s.i := rfl
@[simp] theorem State.tick_pc (s : State) : (s.tick).pc = s.pc := rfl
@[simp] theorem State.tick_dt (s : State) : (s.tick).dt = countDown s.dt := rfl
@[simp] theorem State.tick_st (s : State) : (s.tick).st = countDown s.st := rfl
@[simp] theorem State.tick_stack (s : State) : (s.tick).stack = s.stack := rfl
@[simp] theorem State.tick_compat (s : State) : (s.tick).compat = s.compat := rfl
@[simp] theorem State.tick_mem (s : State) : (s.tick).mem = s.mem := rfl
@[simp] theorem State.tick_fb (s : State) : (s.tick).fb = s.fb := rfl
@[simp] theorem State.tick_run (s : State) : (s.tick).run = s.run := rfl
@[simp] theorem State.tick_fault (s : State) : (s.tick).fault = s.fault := rfl
@[simp] theorem State.tick_params (s : State) : (s.tick).params = s.params := rfl
@[simp] theorem State.tick_inputs (s : State) : (s.tick).inputs = s.inputs := rfl
@[simp] theorem State.tick_driver (s : State) : (s.tick).driver = s.driver := rfl
@[simp] theorem State.tick_draws (s : State) : (s.tick).draws = s.draws := rfl

/-! ### skipIf, setFlag?, arithExec, placing -/

@[simp] theorem State.skipIf_v (s : State) (c : Bool) : (s.skipIf c).v = s.v := by cases c <;> rfl
@[simp] theorem State.skipIf_i (s : State) (c : Bool) : (s.skipIf c).i = s.i := by cases c <;> rfl
@[simp] theorem State.skipIf_dt (s : State) (c : Bool) : (s.skipIf c).dt = s.dt := by cases c <;> rfl
@[simp] theorem State.skipIf_st (s : State) (c : Bool) : (s.skipIf c).st = s.st := by cases c <;> rfl
@[simp] theorem State.skipIf_stack (s : State) (c : Bool) : (s.skipIf c).stack = s.stack := by cases c <;> rfl
@[simp] theorem State.skipIf_compat (s : State) (c : Bool) : (s.skipIf c).compat = s.compat := by cases c <;> rfl
@[simp] theorem State.skipIf_mem (s : State) (c : Bool) : (s.skipIf c).mem = s.mem := by cases c <;> rfl
@[simp] theorem State.skipIf_fb (s : State) (c : Bool) : (s.skipIf c).fb = s.fb := by cases c <;> rfl
@[simp] theorem State.skipIf_run (s : State) (c : Bool) : (s.skipIf c).run = s.run := by cases c <;> rfl
@[simp] theorem State.skipIf_fault (s : State) (c : Bool) : (s.skipIf c).fault = s.fault := by cases c <;> rfl
@[simp] theorem State.skipIf_params (s : State) (c : Bool) : (s.skipIf c).params = s.params := by cases c <;> rfl
@[simp] theorem State.skipIf_inputs (s : State) (c : Bool) : (s.skipIf c).inputs = s.inputs := by cases c <;> rfl
@[simp] theorem State.skipIf_driver (s : State) (c : Bool) : (s.skipIf c).driver = s.driver := by cases c <;> rfl
@[simp] theorem State.skipIf_draws (s : State) (c : Bool) : (s.skipIf c).draws = s.draws := by cases c <;> rfl
@[simp] theorem State.skipIf_pc (s : State) (c : Bool) :
    (s.skipIf c).pc = if c then s.pc + 2#16 else s.pc := by cases c <;> rfl

@[simp] theorem State.setFlag?_i (s : State) (o : Option Bool) : (s.setFlag? o).i = s.i := by cases o <;> rfl
@[simp] theorem State.setFlag?_pc (s : State) (o : Option Bool) : (s.setFlag? o).pc = s.pc := by cases o <;> rfl
@[simp] theorem State.setFlag?_dt (s : State) (o : Option Bool) : (s.setFlag? o).dt = s.dt := by cases o <;> rfl
@[simp] theorem State.setFlag?_st (s : State) (o : Option Bool) : (s.setFlag? o).st = s.st := by cases o <;> rfl
@[simp] theorem State.setFlag?_stack (s : State) (o : Option Bool) : (s.setFlag? o).stack = s.stack := by cases o <;> rfl
@[simp] theorem State.setFlag?_compat (s : State) (o : Option Bool) : (s.setFlag? o).compat = s.compat := by cases o <;> rfl
@[simp] theorem State.setFlag?_mem (s : State) (o : Option Bool) : (s.setFlag? o).mem = s.mem := by cases o <;> rfl
@[simp] theorem State.setFlag?_fb (s : State) (o : Option Bool) : (s.setFlag? o).fb = s.fb := by cases o <;> rfl
@[simp] theorem State.setFlag?_run (s : State) (o : Option Bool) : (s.setFlag? o).run = s.run := by cases o <;> rfl
@[simp] theorem State.setFlag?_fault (s : State) (o : Option Bool) : (s.setFlag? o).fault = s.fault := by cases o <;> rfl
@[simp] theorem State.setFlag?_params (s : State) (o : Option Bool) : (s.setFlag? o).params = s.params := by cases o <;> rfl
@[simp] theorem State.setFlag?_inputs (s : State) (o : Option Bool) : (s.setFlag? o).inputs = s.inputs := by cases o <;> rfl
@[simp] theorem State.setFlag?_driver (s : State) (o : Option Bool) : (s.setFlag? o).driver = s.driver := by cases o <;> rfl
@[simp] theorem State.setFlag?_draws (s : State) (o : Option Bool) : (s.setFlag? o).draws = s.draws := by cases o <;> rfl

@[simp] theorem arithExec_i (op : AluOp) (x : RegIx) (o : Operand) (s : State) : (arithExec op x o s).i = s.i := by simp [arithExec]
@[simp] theorem arithExec_pc (op : AluOp) (x : RegIx) (o : Operand) (s : State) : (arithExec op x o s).pc = s.pc := by simp [arithExec]
@[simp] theorem arithExec_dt (op : AluOp) (x : RegIx) (o : Operand) (s : State) : (arithExec op x o s).dt = s.dt := by simp [arithExec]
@[simp] theorem arithExec_st (op : AluOp) (x : RegIx) (o : Operand) (s : State) : (arithExec op x o s).st = s.st := by simp [arithExec]
@[simp] theorem arithExec_stack (op : AluOp) (x : RegIx) (o : Operand) (s : State) : (arithExec op x o s).stack = s.stack := by simp [arithExec]
@[simp] theorem arithExec_compat (op : AluOp) (x : RegIx) (o : Operand) (s : State) : (arithExec op x o s).compat = s.compat := by simp [arithExec]
@[simp] theorem arithExec_mem (op : AluOp) (x : RegIx) (o : Operand) (s : State) : (arithExec op x o s).mem = s.mem := by simp [arithExec]
@[simp] theorem arithExec_fb (op : AluOp) (x : RegIx) (o : Operand) (s : State) : (arithExec op x o s).fb = s.fb := by simp [arithExec]
@[simp] theorem arithExec_run (op : AluOp) (x : RegIx) (o : Operand) (s : State) : (arithExec op x o s).run = s.run := by simp [arithExec]
@[simp] theorem arithExec_fault (op : AluOp) (x : RegIx) (o : Operand) (s : State) : (arithExec op x o s).fault = s.fault := by simp [arithExec]
@[simp] theorem arithExec_params (op : AluOp) (x : RegIx) (o : Operand) (s : State) : (arithExec op x o s).params = s.params := by simp [arithExec]
@[simp] theorem arithExec_inputs (op : AluOp) (x : RegIx) (o : Operand) (s : State) : (arithExec op x o s).inputs = s.inputs := by simp [arithExec]
@[simp] theorem arithExec_driver (op : AluOp) (x : RegIx) (o : Operand) (s : State) : (arithExec op x o s).driver = s.driver := by simp [arithExec]
@[simp] theorem arithExec_draws (op : AluOp) (x : RegIx) (o : Operand) (s : State) : (arithExec op x o s).draws = s.draws := by simp [arithExec]

@[simp] theorem State.setRegsFrom_i (s : State) (k : Nat) (bs : List Byte) : (s.setRegsFrom k bs).i = s.i := by
  induction bs generalizing s k with
  | nil => rfl
  | cons b rest ih => exact ih _ _
@[simp] theorem State.setRegsFrom_pc (s : State) (k : Nat) (bs : List Byte) : (s.setRegsFrom k bs).pc = s.pc := by
  induction bs generalizing s k with
  | nil => rfl
  | cons b rest ih => exact ih _ _
@[simp] theorem State.setRegsFrom_dt (s : State) (k : Nat) (bs : List Byte) : (s.setRegsFrom k bs).dt = s.dt := by
  induction bs generalizing s k with
  | nil => rfl
  | cons b rest ih => exact ih _ _
@[simp] theorem State.setRegsFrom_st (s : State) (k : Nat) (bs : List Byte) : (s.setRegsFrom k bs).st = s.st := by
  induction bs generalizing s k with
  | nil => rfl
  | cons b rest ih => exact ih _ _
@[simp] theorem State.setRegsFrom_stack (s : State) (k : Nat) (bs : List Byte) : (s.setRegsFrom k bs).stack = s.stack := by
  induction bs generalizing s k with
  | nil => rfl
  | cons b rest ih => exact ih _ _
@[simp] theorem State.setRegsFrom_compat (s : State) (k : Nat) (bs : List Byte) : (s.setRegsFrom k bs).compat = s.compat := by
  induction bs generalizing s k with
  | nil => rfl
  | cons b rest ih => exact ih _ _
@[simp] theorem State.setRegsFrom_mem (s : State) (k : Nat) (bs : List Byte) : (s.setRegsFrom k bs).mem = s.mem := by
  induction bs generalizing s k with
  | nil => rfl
  | cons b rest ih => exact ih _ _
@[simp] theorem State.setRegsFrom_fb (s : State) (k : Nat) (bs : List Byte) : (s.setRegsFrom k bs).fb = s.fb := by
  induction bs generalizing s k with
  | nil => rfl
  | cons b rest ih => exact ih _ _
@[simp] theorem State.setRegsFrom_run (s : State) (k : Nat) (bs : List Byte) : (s.setRegsFrom k bs).run = s.run := by
  induction bs generalizing s k with
  | nil => rfl
  | cons b rest ih => exact ih _ _
@[simp] theorem State.setRegsFrom_fault (s : State) (k : Nat) (bs : List Byte) : (s.setRegsFrom k bs).fault = s.fault := by
  induction bs generalizing s k with
  | nil => rfl
  | cons b rest ih => exact ih _ _
@[simp] theorem State.setRegsFrom_params (s : State) (k : Nat) (bs : List Byte) : (s.setRegsFrom k bs).params = s.params := by
  induction bs generalizing s k with
  | nil => rfl
  | cons b rest ih => exact ih _ _
@[simp] theorem State.setRegsFrom_inputs (s : State) (k : Nat) (bs : List Byte) : (s.setRegsFrom k bs).inputs = s.inputs := by
  induction bs generalizing s k with
  | nil => rfl
  | cons b rest ih => exact ih _ _
@[simp] theorem State.setRegsFrom_driver (s : State) (k : Nat) (bs : List Byte) : (s.setRegsFrom k bs).driver = s.driver := by
  induction bs generalizing s k with
  | nil => rfl
  | cons b rest ih => exact ih _ _
@[simp] theorem State.setRegsFrom_draws (s : State) (k : Nat) (bs : List Byte) : (s.setRegsFrom k bs).draws = s.draws := by
  induction bs generalizing s k with
  | nil => rfl
  | cons b rest ih => exact ih _ _

@[simp] theorem State.setBytesAt_v (s : State) (a : Nat) (bs : List Byte) : (s.setBytesAt a bs).v = s.v := by
  induction bs generalizing s a with
  | nil => rfl
  | cons b rest ih => exact ih _ _
@[simp] theorem State.setBytesAt_i (s : State) (a : Nat) (bs : List Byte) : (s.setBytesAt a bs).i = s.i := by
  induction bs generalizing s a with
  | nil => rfl
  | cons b rest ih => exact ih _ _
@[simp] theorem State.setBytesAt_pc (s : State) (a : Nat) (bs : List Byte) : (s.setBytesAt a bs).pc = s.pc := by
  induction bs generalizing s a with
  | nil => rfl
  | cons b rest ih => exact ih _ _
@[simp] theorem State.setBytesAt_dt (s : State) (a : Nat) (bs : List Byte) : (s.setBytesAt a bs).dt = s.dt := by
  induction bs generalizing s a with
  | nil => rfl
  | cons b rest ih => exact ih _ _
@[simp] theorem State.setBytesAt_st (s : State) (a : Nat) (bs : List Byte) : (s.setBytesAt a bs).st = s.st := by
  induction bs generalizing s a with
  | nil => rfl
  | cons b rest ih => exact ih _ _
@[simp] theorem State.setBytesAt_stack (s : State) (a : Nat) (bs : List Byte) : (s.setBytesAt a bs).stack = s.stack := by
  induction bs generalizing s a with
  | nil => rfl
  | cons b rest ih => exact ih _ _
@[simp] theorem State.setBytesAt_compat (s : State) (a : Nat) (bs : List Byte) : (s.setBytesAt a bs).compat = s.compat := by
  induction bs generalizing s a with
  | nil => rfl
  | cons b rest ih => exact ih _ _
@[simp] theorem State.setBytesAt_fb (s : State) (a : Nat) (bs : List Byte) : (s.setBytesAt a bs).fb = s.fb := by
  induction bs generalizing s a with
  | nil => rfl
  | cons b rest ih => exact ih _ _
@[simp] theorem State.setBytesAt_run (s : State) (a : Nat) (bs : List Byte) : (s.setBytesAt a bs).run = s.run := by
  induction bs generalizing s a with
  | nil => rfl
  | cons b rest ih => exact ih _ _
@[simp] theorem State.setBytesAt_fault (s : State) (a : Nat) (bs : List Byte) : (s.setBytesAt a bs).fault = s.fault := by
  induction bs generalizing s a with
  | nil => rfl
  | cons b rest ih => exact ih _ _
@[simp] theorem State.setBytesAt_params (s : State) (a : Nat) (bs : List Byte) : (s.setBytesAt a bs).params = s.params := by
  induction bs generalizing s a with
  | nil => rfl
  | cons b rest ih => exact ih _ _
@[simp] theorem State.setBytesAt_inputs (s : State) (a : Nat) (bs : List Byte) : (s.setBytesAt a bs).inputs = s.inputs := by
  induction bs generalizing s a with
  | nil => rfl
  | cons b rest ih => exact ih _ _
@[simp] theorem State.setBytesAt_driver (s : State) (a : Nat) (bs : List Byte) : (s.setBytesAt a bs).driver = s.driver := by
  induction bs generalizing s a with
  | nil => rfl
  | cons b rest ih => exact ih _ _
@[simp] theorem State.setBytesAt_draws (s : State) (a : Nat) (bs : List Byte) : (s.setBytesAt a bs).draws = s.draws := by
  induction bs generalizing s a with
  | nil => rfl
  | cons b rest ih => exact ih _ _

/-! ### A register after a register write -/

/-- The register written holds the byte. -/
@[simp] theorem State.reg_setReg_same (s : State) (x : RegIx) (b : Byte) : (s.setReg x b).reg x = b := by
  simp [State.reg, State.setReg]

/-- Every other register is as before. -/
theorem State.reg_setReg_ne (s : State) {x r : RegIx} (b : Byte) (h : r ≠ x) : (s.setReg x b).reg r = s.reg r := by
  have hn : x.toNat ≠ r.toNat := fun e => h (BitVec.eq_of_toNat_eq e.symm)
  simp [State.reg, State.setReg, hn]

/-- A register after a register write. -/
theorem State.reg_setReg (s : State) (x r : RegIx) (b : Byte) :
    (s.setReg x b).reg r = if r = x then b else s.reg r := by
  split
  · next h => subst h; simp
  · next h => exact s.reg_setReg_ne b h

/-- A register after a flag write. -/
theorem State.reg_setFlag (s : State) (r : RegIx) (b : Bool) :
    (s.setFlag b).reg r = if r = flagReg then flagByte b else s.reg r := s.reg_setReg flagReg r (flagByte b)

/-- Registers do not depend on the other fields. -/
theorem State.reg_congr {s t : State} (h : t.v = s.v) (x : RegIx) : t.reg x = s.reg x := by simp [State.reg, h]

/-- Two states with the same registers, read one by one, have the same register file. -/
theorem State.v_ext {s t : State} (h : ∀ r : RegIx, t.reg r = s.reg r) : t.v = s.v := by
  apply Vector.ext
  intro k hk
  have hr := h (BitVec.ofNat 4 k)
  have hm : k % 16 = k := Nat.mod_eq_of_lt hk
  simpa [State.reg, BitVec.toNat_ofNat, hm] using hr

end Sys2Proof.Machine
end

