-- ==== Sys2Proof/Laws/Memory.lean ====
section
/-! SUPPORT. Sys2Proof/Laws/Memory.lean: read after write, and that every memory operation keeps the canonical form. -/

namespace Sys2Proof.Machine

/-- The canonical form of a list with a first entry. -/
theorem Memory.wf_cons {font : Font} {b : Nat} {w : Byte} {rest : List Host.Cell} :
    Memory.wf font ((b, w) :: rest) = true ↔
      b < Config.memSize ∧ w ≠ Memory.initial font b ∧ (∀ e ∈ rest, b < e.1) ∧ Memory.wf font rest = true := by
  induction rest generalizing b w with
  | nil => simp [Memory.wf]
  | cons e rest ih =>
    obtain ⟨c, x⟩ := e
    simp only [Memory.wf, Bool.and_eq_true, decide_eq_true_eq, bne_iff_ne, List.mem_cons, forall_eq_or_imp, ih]
    constructor
    · rintro ⟨⟨h1, h2⟩, h3, h4, h5, h6⟩
      exact ⟨by omega, h2, ⟨h1, fun e he => by have := h5 e he; omega⟩, h3, h4, h5, h6⟩
    · rintro ⟨h1, h2, ⟨h3, _⟩, h5⟩
      exact ⟨⟨h3, h2⟩, h5⟩

/-- The empty memory is canonical. -/
@[simp] theorem Memory.wf_nil (font : Font) : Memory.wf font [] = true := rfl

/-- An address below every listed one reads as unlisted. -/
theorem Memory.read_below {font : Font} {c : Nat} {mem : List Host.Cell} (h : ∀ e ∈ mem, c < e.1) :
    Memory.read font mem c = Memory.initial font c := by
  induction mem with
  | nil => rfl
  | cons e rest ih =>
    have he := h e (by simp)
    have hne : c ≠ e.1 := by omega
    simp only [Memory.read, hne, if_false]
    exact ih fun e' h' => h e' (by simp [h'])

/-- The entries of a memory after a write: the written one, and old ones. -/
theorem Memory.mem_write {font : Font} {a : Nat} {u : Byte} {mem : List Host.Cell} {e : Host.Cell}
    (h : e ∈ Memory.write font a u mem) : e = (a, u) ∨ e ∈ mem := by
  induction mem with
  | nil => simp only [Memory.write] at h; split at h <;> simp_all
  | cons f rest ih =>
    simp only [Memory.write] at h
    split at h
    · split at h <;> simp_all
    · split at h
      · split at h
        · simp_all
        · simp_all; tauto
      · simp only [List.mem_cons] at h ⊢
        rcases h with h | h
        · exact .inr (.inl h)
        · rcases ih h with h | h <;> simp [h]

/-- A byte of memory after a write of one byte. -/
theorem Memory.read_write {font : Font} {mem : List Host.Cell} (hs : Memory.wf font mem = true) (a : Nat) (u : Byte)
    (c : Nat) : Memory.read font (Memory.write font a u mem) c = if c = a then u else Memory.read font mem c := by
  induction mem with
  | nil =>
    simp only [Memory.write, Memory.read]
    split
    · next h => split <;> simp_all [Memory.read]
    · rfl
  | cons e rest ih =>
    obtain ⟨b, w⟩ := e
    obtain ⟨_, _, hlt, hwf⟩ := Memory.wf_cons.mp hs
    simp only [Memory.write]
    by_cases hab : a < b
    · have hbelow : Memory.read font ((b, w) :: rest) a = Memory.initial font a :=
        Memory.read_below fun e he => by
          rcases List.mem_cons.mp he with rfl | h
          · exact hab
          · have := hlt e h; omega
      simp only [hab, if_true]
      by_cases hu : u = Memory.initial font a
      · simp only [hu, if_true]
        split
        · next h => rw [h, hbelow]
        · rfl
      · simp only [hu, if_false]; rfl
    · simp only [hab, if_false]
      by_cases heq : a = b
      · subst heq
        simp only [if_true]
        by_cases hu : u = Memory.initial font a
        · simp only [hu, if_true, Memory.read]
          split
          · next h => rw [h]; exact Memory.read_below hlt
          · rfl
        · simp only [hu, if_false, Memory.read]
          split <;> rfl
      · simp only [heq, if_false, Memory.read, ih hwf]
        by_cases hcb : c = b
        · have : c ≠ a := by omega
          simp [hcb, Ne.symm heq]
        · simp [hcb]

/-- A write below 4096 keeps the canonical form. -/
theorem Memory.wf_write {font : Font} {mem : List Host.Cell} (hs : Memory.wf font mem = true) {a : Nat}
    (ha : a < Config.memSize) (u : Byte) : Memory.wf font (Memory.write font a u mem) = true := by
  induction mem with
  | nil =>
    simp only [Memory.write]
    split
    · rfl
    · next h => exact Memory.wf_cons.mpr ⟨ha, h, by simp, rfl⟩
  | cons e rest ih =>
    obtain ⟨b, w⟩ := e
    obtain ⟨hb, hw, hlt, hwf⟩ := Memory.wf_cons.mp hs
    simp only [Memory.write]
    split
    · next hab =>
      split
      · exact hs
      · next hu =>
        refine Memory.wf_cons.mpr ⟨ha, hu, ?_, hs⟩
        intro e he
        rcases List.mem_cons.mp he with rfl | h
        · exact hab
        · have := hlt e h; omega
    · next hab =>
      split
      · next heq =>
        subst heq
        split
        · exact hwf
        · next hu => exact Memory.wf_cons.mpr ⟨ha, hu, hlt, hwf⟩
      · next heq =>
        refine Memory.wf_cons.mpr ⟨hb, hw, ?_, ih hwf⟩
        intro e he
        rcases Memory.mem_write he with rfl | h
        · show b < a; omega
        · exact hlt e h

/-- Installing an image that fits keeps the canonical form. -/
theorem Memory.wf_installImage {font : Font} {image : List Byte} {a : Nat} {mem : List Host.Cell}
    (hs : Memory.wf font mem = true) (h : a + image.length ≤ Config.memSize) :
    Memory.wf font (installImage font a image mem) = true := by
  induction image generalizing a mem with
  | nil => exact hs
  | cons u rest ih =>
    simp only [List.length_cons] at h
    exact ih (Memory.wf_write hs (by omega) u) (by omega)

/-- A byte of memory after an image is installed. -/
theorem Memory.read_installImage {font : Font} {image : List Byte} {a : Nat} {mem : List Host.Cell}
    (hs : Memory.wf font mem = true) (h : a + image.length ≤ Config.memSize) (c : Nat) :
    Memory.read font (installImage font a image mem) c =
      if c < a then Memory.read font mem c else image.getD (c - a) (Memory.read font mem c) := by
  induction image generalizing a mem with
  | nil => simp [installImage]
  | cons u rest ih =>
    simp only [List.length_cons] at h
    rw [installImage, ih (Memory.wf_write hs (by omega) u) (by omega), Memory.read_write hs]
    by_cases h1 : c < a
    · have h2 : c < a + 1 := by omega
      have h3 : c ≠ a := by omega
      simp [h1, h2, h3]
    · by_cases h2 : c = a
      · subst h2; simp
      · have h3 : ¬ c < a + 1 := by omega
        have h4 : c - a = (c - (a + 1)) + 1 := by omega
        simp only [h1, h2, h3, if_false, h4, List.getD_cons_succ]

/-- A byte of MEM after a write of one byte. -/
theorem State.byteAt_setByteAt {s : State} (hs : Memory.wf s.params.font s.mem = true) (a : Nat) (u : Byte) (c : Nat) :
    (s.setByteAt a u).byteAt c = if c = a then u else s.byteAt c := Memory.read_write hs a u c

/-- A write of one byte keeps the canonical form. -/
theorem State.wf_setByteAt {s : State} (hs : Memory.wf s.params.font s.mem = true) {a : Nat} (ha : a < Config.memSize)
    (u : Byte) : Memory.wf (s.setByteAt a u).params.font (s.setByteAt a u).mem = true := Memory.wf_write hs ha u

/-- Writes of a block that fits keep the canonical form. -/
theorem State.wf_setBytesAt {s : State} {bs : List Byte} {a : Nat} (hs : Memory.wf s.params.font s.mem = true)
    (h : a + bs.length ≤ Config.memSize) :
    Memory.wf (s.setBytesAt a bs).params.font (s.setBytesAt a bs).mem = true := by
  induction bs generalizing s a with
  | nil => exact hs
  | cons u rest ih =>
    simp only [List.length_cons] at h
    exact ih (State.wf_setByteAt hs (by omega) u) (by omega)

/-- A byte of MEM after the writes of a block that fits. -/
theorem State.byteAt_setBytesAt {s : State} {bs : List Byte} {a : Nat} (hs : Memory.wf s.params.font s.mem = true)
    (h : a + bs.length ≤ Config.memSize) (c : Nat) :
    (s.setBytesAt a bs).byteAt c = if c < a then s.byteAt c else bs.getD (c - a) (s.byteAt c) := by
  induction bs generalizing s a with
  | nil => simp [State.setBytesAt]
  | cons u rest ih =>
    simp only [List.length_cons] at h
    rw [State.setBytesAt, ih (State.wf_setByteAt hs (by omega) u) (by omega), State.byteAt_setByteAt hs]
    by_cases h1 : c < a
    · have h2 : c < a + 1 := by omega
      have h3 : c ≠ a := by omega
      simp [h1, h2, h3]
    · by_cases h2 : c = a
      · subst h2; simp
      · have h3 : ¬ c < a + 1 := by omega
        have h4 : c - a = (c - (a + 1)) + 1 := by omega
        simp only [h1, h2, h3, if_false, h4, List.getD_cons_succ]

/-- Bytes do not depend on fields other than memory and the font. -/
theorem State.byteAt_congr {s t : State} (hm : t.mem = s.mem) (hp : t.params = s.params) (a : Nat) :
    t.byteAt a = s.byteAt a := by simp [State.byteAt, hm, hp]

end Sys2Proof.Machine
end

