-- ==== Sys2Proof/Laws/Ops.lean ====
section
/-! SUPPORT. Sys2Proof/Laws/Ops.lean: one lemma per shared operation that says everything it can do. -/

namespace Sys2Proof.Machine

/-- The range check passes exactly when no address of the access is above 0xFFF. -/
theorem rangeCheck_ok {base count : Nat} {kind : AccessKind} (h : base + count ≤ 4096 ∨ count = 0) :
    rangeCheck base count kind = .ok () := if_pos h

/-- The range check fails at the lowest offending address. -/
theorem rangeCheck_error {base count : Nat} {kind : AccessKind} (h : 4096 < base + count) (h0 : count ≠ 0) :
    rangeCheck base count kind = .error (.memoryOutOfRange (max base 4096) kind) := by
  have : ¬ (base + count ≤ 4096 ∨ count = 0) := by omega
  exact if_neg this

/-- What a range check answers. -/
theorem rangeCheck_cases (base count : Nat) (kind : AccessKind) :
    ((base + count ≤ 4096 ∨ count = 0) ∧ rangeCheck base count kind = .ok ()) ∨
    (4096 < base + count ∧ count ≠ 0 ∧
      rangeCheck base count kind = .error (.memoryOutOfRange (max base 4096) kind)) := by
  by_cases h : base + count ≤ 4096 ∨ count = 0
  · exact .inl ⟨h, rangeCheck_ok h⟩
  · have h1 : 4096 < base + count := by omega
    have h2 : count ≠ 0 := by omega
    exact .inr ⟨h1, h2, rangeCheck_error h1 h2⟩

/-- A block read that fits gives the bytes. -/
theorem readBlock_ok {s : State} {base count : Nat} (h : base + count ≤ 4096 ∨ count = 0) :
    readBlock s base count = .ok (s.bytesAt base count) := by simp [readBlock, rangeCheck_ok h]

/-- A block read that does not fit gives the fatal condition. -/
theorem readBlock_error {s : State} {base count : Nat} (h : 4096 < base + count) (h0 : count ≠ 0) :
    readBlock s base count = .error (.memoryOutOfRange (max base 4096) .read) := by
  simp [readBlock, rangeCheck_error h h0]

/-- A block write that fits gives the state with the bytes written. -/
theorem writeBlock_ok {s : State} {base : Nat} {bs : List Byte} (h : base + bs.length ≤ 4096 ∨ bs.length = 0) :
    writeBlock s base bs = .ok (s.setBytesAt base bs) := by simp [writeBlock, rangeCheck_ok h]

/-- A block write that does not fit gives the fatal condition. -/
theorem writeBlock_error {s : State} {base : Nat} {bs : List Byte} (h : 4096 < base + bs.length)
    (h0 : bs.length ≠ 0) : writeBlock s base bs = .error (.memoryOutOfRange (max base 4096) .write) := by
  simp [writeBlock, rangeCheck_error h h0]

/-- Fetch with PC at most 0xFFE gives the word at PC. -/
theorem fetch_ok {s : State} (h : s.pc.toNat ≤ 0xFFE) :
    fetch s = .ok (wordOfBytes (s.byteAt s.pc.toNat) (s.byteAt (s.pc.toNat + 1))) := by
  have h1 : s.pc.toNat + 2 ≤ 4096 ∨ 2 = 0 := by omega
  simp [fetch, rangeCheck_ok h1]

/-- Fetch with PC above 0xFFE is fatal. -/
theorem fetch_error {s : State} (h : 0xFFE < s.pc.toNat) :
    fetch s = .error (.memoryOutOfRange (max s.pc.toNat 4096) .fetch) := by
  have h1 : 4096 < s.pc.toNat + 2 := by omega
  simp [fetch, rangeCheck_error h1 (by omega : 2 ≠ 0)]

/-- The bytes of a block read, by position. -/
@[simp] theorem State.bytesAt_length (s : State) (base count : Nat) : (s.bytesAt base count).length = count := by
  simp [State.bytesAt]

/-- The k-th byte of a block read. -/
theorem State.bytesAt_getD (s : State) (base count k : Nat) (d : Byte) (h : k < count) :
    (s.bytesAt base count).getD k d = s.byteAt (base + k) := by
  simp [State.bytesAt, List.getD_eq_getElem?_getD, h]

/-- The registers V0..Vx, by position. -/
@[simp] theorem State.regsFromZero_length (s : State) (x : RegIx) :
    (s.regsFromZero (regCount x)).length = x.toNat + 1 := by
  have := x.isLt
  simp [State.regsFromZero, regCount]; omega

/-- The k-th of the registers V0..Vx. -/
theorem State.regsFromZero_getD (s : State) (x k : RegIx) (d : Byte) (h : k.toNat ≤ x.toNat) :
    (s.regsFromZero (regCount x)).getD k.toNat d = s.reg k := by
  have h1 : k.toNat < x.toNat + 1 := by omega
  have h2 : k.toNat < 16 := k.isLt
  simp [State.regsFromZero, regCount, State.reg, List.getD_eq_getElem?_getD, h1, h2]

/-- A register after a block of register writes. -/
theorem State.reg_setRegsFrom (s : State) (first : Nat) (bs : List Byte) (r : RegIx) :
    (s.setRegsFrom first bs).reg r = if r.toNat < first then s.reg r else bs.getD (r.toNat - first) (s.reg r) := by
  induction bs generalizing s first with
  | nil => simp [State.setRegsFrom]
  | cons b rest ih =>
    have hr : r.toNat < 16 := r.isLt
    rw [State.setRegsFrom, ih]
    by_cases h1 : r.toNat < first
    · have h2 : r.toNat < first + 1 := by omega
      have h3 : first ≠ r.toNat := by omega
      simp [h1, h2, State.reg, h3]
    · by_cases h2 : r.toNat = first
      · simp [h2.symm, State.reg]
      · have h3 : ¬ r.toNat < first + 1 := by omega
        have h4 : r.toNat - first = (r.toNat - (first + 1)) + 1 := by omega
        have h5 : first ≠ r.toNat := by omega
        simp [h1, h3, h4, State.reg, h5]

/-- What `complete` answers: always a next state. -/
theorem complete_next (s : State) (r : Except Fatal State) :
    (∃ t, r = .ok t ∧ complete s r = .next t) ∨ (∃ f, r = .error f ∧ complete s r = .next (s.raise f)) := by
  cases r with
  | ok t => exact .inl ⟨t, rfl, rfl⟩
  | error f => exact .inr ⟨f, rfl, rfl⟩

@[simp] theorem complete_ok (s t : State) : complete s (.ok t) = .next t := rfl
@[simp] theorem complete_error (s : State) (f : Fatal) : complete s (.error f) = .next (s.raise f) := rfl

/-- Raising undoes the advance: the fatal condition is precise (60_exceptions.md R214). -/
theorem State.raise_advance (s : State) (f : Fatal) : s.advance.raise f = s.halt f := by
  simp [State.raise, State.rewind, State.advance, State.halt]

/-- The flag as a byte. -/
@[simp] theorem flagByte_true : flagByte true = 1#8 := rfl
@[simp] theorem flagByte_false : flagByte false = 0#8 := rfl

/-- Registers after an ALU instruction: the result, then the flag if there is one (42_alu.md R121). -/
theorem arithExec_reg (op : AluOp) (x : RegIx) (o : Operand) (s : State) (r : RegIx) :
    (arithExec op x o s).reg r =
      match (alu (s.reg x) (s.operand o) op s.compat).2 with
      | none => if r = x then (alu (s.reg x) (s.operand o) op s.compat).1 else s.reg r
      | some b =>
        if r = flagReg then flagByte b
        else if r = x then (alu (s.reg x) (s.operand o) op s.compat).1 else s.reg r := by
  simp only [arithExec]
  cases (alu (s.reg x) (s.operand o) op s.compat).2 with
  | none => exact s.reg_setReg x r _
  | some b => simp only [State.setFlag?, State.reg_setFlag, State.reg_setReg]

/-- An ALU instruction changes registers only. -/
theorem arithExec_eq (op : AluOp) (x : RegIx) (o : Operand) (s : State) :
    arithExec op x o s = { s with v := (arithExec op x o s).v } := by
  simp only [arithExec]
  cases (alu (s.reg x) (s.operand o) op s.compat).2 <;> rfl

end Sys2Proof.Machine
end

