-- ==== Sys2Proof/Laws/Step.lean ====
section
/-! SUPPORT. Sys2Proof/Laws/Step.lean: what exec, an operation and a step can answer. -/

namespace Sys2Proof.Machine

/-- Every instruction answers a next state, whatever the state: it never stops the machine by itself. -/
theorem exec_next (i : Instr) (s : State) : ∃ t, exec i s = .next t := by
  cases i <;> exact ⟨_, rfl⟩

@[simp] theorem whenRunning_running {α : Type} {s : State} (h : s.run = .running) (k : Host.Outcome α Fault Refusal) :
    whenRunning s k = k := by simp [whenRunning, h]

@[simp] theorem whenRunning_halted {α : Type} {s : State} (h : s.run = .halted) (k : Host.Outcome α Fault Refusal) :
    whenRunning s k = .fault (.halted s.fault) := by simp [whenRunning, h]

@[simp] theorem whenRunning_unloaded {α : Type} {s : State} (h : s.run = .unloaded)
    (k : Host.Outcome α Fault Refusal) : whenRunning s k = .refused .notLoaded := by simp [whenRunning, h]

/-- An operation that requires a running machine and answers a next state ran on a running machine. -/
theorem whenRunning_next {α : Type} {s : State} {k : Host.Outcome α Fault Refusal} {t : α}
    (h : whenRunning s k = .next t) : s.run = .running ∧ k = .next t := by
  unfold whenRunning at h
  split at h
  · next hr => exact ⟨hr, h⟩
  · cases h
  · cases h

/-- What one fetch-decode-execute cycle does (30_encoding.md R90). -/
theorem cycle_cases (s : State) :
    (0xFFE < s.pc.toNat ∧ cycle s = .next (s.halt (.memoryOutOfRange (max s.pc.toNat 4096) .fetch))) ∨
    (s.pc.toNat ≤ 0xFFE ∧ ∃ w, w = wordOfBytes (s.byteAt s.pc.toNat) (s.byteAt (s.pc.toNat + 1)) ∧
      ((∃ e, decodeWord w = .error e ∧ cycle s = .next (s.halt (.unrecognizedInstruction w s.pc))) ∨
       (∃ i, decodeWord w = .ok i ∧ cycle s = exec i s.advance))) := by
  by_cases h : s.pc.toNat ≤ 0xFFE
  · refine .inr ⟨h, _, rfl, ?_⟩
    cases hd : decodeWord (wordOfBytes (s.byteAt s.pc.toNat) (s.byteAt (s.pc.toNat + 1))) with
    | error e =>
      refine .inl ⟨e, rfl, ?_⟩
      simp [cycle, fetch_ok h, hd, State.raise_advance]
    | ok i => exact .inr ⟨i, rfl, by simp [cycle, fetch_ok h, hd]⟩
  · have h' : 0xFFE < s.pc.toNat := by omega
    exact .inl ⟨h', by simp [cycle, fetch_error h']⟩

/-- The state of an operation without a result. -/
@[simp] theorem dropResult_noResult (o : Host.Outcome State Fault Refusal) : dropResult (noResult o) = o := by
  cases o <;> rfl

/-- The state of a result that stands behind the running check. -/
theorem dropResult_whenRunning (u : State) (r : State × OpResult) :
    dropResult (whenRunning u (.next r)) = whenRunning u (.next r.1) := by
  unfold whenRunning
  cases u.run <;> rfl

/-- What one step does, by the operation it applies. -/
theorem step_cases {s t : State} (h : step s = .next t) :
    ∃ op u, nextOperation s = (op, u) ∧
      ((∃ image compat, op = .load image compat ∧ loadOp image compat u = .next t) ∨
       (∃ inputs, op = .step inputs ∧ u.run = .running ∧ cycle { u with inputs := inputs } = .next t) ∨
       (op = .tick ∧ u.run = .running ∧ t = u.tick) ∨
       (op = .fade ∧ u.run = .running ∧ t = { u with fb := fadeFb u.fb }) ∨
       (op = .fbread ∧ u.run ≠ .unloaded ∧ t = u)) := by
  unfold step driverStep at h
  generalize nextOperation s = p at h ⊢
  obtain ⟨op, u⟩ := p
  refine ⟨op, u, rfl, ?_⟩
  cases op with
  | load image compat => exact .inl ⟨image, compat, rfl, by simpa [applyOp] using h⟩
  | step inputs =>
    have := whenRunning_next (by simpa [applyOp, stepOp] using h)
    exact .inr (.inl ⟨inputs, rfl, this⟩)
  | tick =>
    simp only [applyOp, tickOp, dropResult_whenRunning] at h
    obtain ⟨hr, ht⟩ := whenRunning_next h
    exact .inr (.inr (.inl ⟨rfl, hr, (Host.Outcome.next.inj ht).symm⟩))
  | fade =>
    simp only [applyOp, fadeOp, dropResult_noResult] at h
    obtain ⟨hr, ht⟩ := whenRunning_next h
    exact .inr (.inr (.inr (.inl ⟨rfl, hr, (Host.Outcome.next.inj ht).symm⟩)))
  | fbread =>
    refine .inr (.inr (.inr (.inr ⟨rfl, ?_⟩)))
    simp only [applyOp, fbreadOp] at h
    split at h
    · cases h
    · next hr => exact ⟨by simp [hr], (Host.Outcome.next.inj h).symm⟩
    · next hr => exact ⟨by simp [hr], (Host.Outcome.next.inj h).symm⟩

/-- A named operation comes first. -/
@[simp] theorem nextOperation_cons {s : State} {op : Operation} {rest : List Operation} (h : s.driver = op :: rest) :
    nextOperation s = (op, { s with driver := rest }) := by simp [nextOperation, h]

/-- With none named the operation is free. -/
@[simp] theorem nextOperation_nil {s : State} (h : s.driver = []) :
    nextOperation s = (Config.operation s.draws, { s with draws := s.draws + 1 }) := by simp [nextOperation, h]

/-- Taking the driver's next operation changes the driver's list and the count of draws only. -/
theorem nextOperation_frame (s : State) :
    (nextOperation s).2 = { s with driver := (nextOperation s).2.driver, draws := (nextOperation s).2.draws } := by
  unfold nextOperation
  split <;> rfl

end Sys2Proof.Machine
end

