-- ==== Sys2Proof/Laws/Exec.lean ====
section
/-! SUPPORT. Sys2Proof/Laws/Exec.lean: the inversion of exec, once for all instructions: what the next state of any
instruction looks like. Invariants are proved over its twelve shapes, not over 34 arms. -/

namespace Sys2Proof.Machine

/-- The shapes of the state after an instruction. -/
inductive ExecShape (s : State) : State → Prop where
  /-- a fatal condition of RET, CALL, DXYN, FX33, FX55 or FX65 -/
  | raised (f : Fatal) : ExecShape s (s.raise f)
  /-- the ALU instructions, CXNN, FX07, and FX0A with a key pressed -/
  | regs (v : Vector Byte 16) : ExecShape s { s with v := v }
  /-- jumps: to an address of the instruction, at most 0xFFF + 0xFF -/
  | jump (p : Word) (h : p.toNat ≤ 0x10FE) : ExecShape s { s with pc := p }
  /-- skips, taken or not -/
  | skip (c : Bool) : ExecShape s (s.skipIf c)
  /-- FX0A with no key pressed -/
  | again : ExecShape s s.rewind
  /-- RET -/
  | ret (a : Word) (below : List Word) (h : s.stack = below ++ [a]) : ExecShape s { s with pc := a, stack := below }
  /-- CALL -/
  | call (p : Word) (h : p.toNat ≤ 0xFFF) (hroom : s.stackFull = false) :
      ExecShape s { s with pc := p, stack := s.stack ++ [s.pc] }
  /-- CLS -/
  | cls : ExecShape s { s with fb := blankFb }
  /-- DXYN -/
  | drw (v : Vector Byte 16) (x0 y0 : Nat) (rows : List Byte) :
      ExecShape s { s with v := v, fb := (drawSprite s.fb x0 y0 rows).1 }
  /-- ANNN, FX1E, FX29, FX65 -/
  | index (v : Vector Byte 16) (i : Word) : ExecShape s { s with v := v, i := i }
  /-- FX33, FX55 -/
  | store (base : Nat) (bytes : List Byte) (i : Word) (h : base + bytes.length ≤ Config.memSize) :
      ExecShape s { s with mem := (s.setBytesAt base bytes).mem, i := i }
  /-- FX15, FX18 -/
  | timers (dt st : Byte) : ExecShape s { s with dt := dt, st := st }

/-- A block of byte writes changes MEM only. -/
theorem State.setBytesAt_eq (s : State) (a : Nat) (bs : List Byte) :
    s.setBytesAt a bs = { s with mem := (s.setBytesAt a bs).mem } := by
  induction bs generalizing s a with
  | nil => rfl
  | cons b rest ih => exact ih _ _

/-- A block of register writes changes registers only. -/
theorem State.setRegsFrom_eq (s : State) (k : Nat) (bs : List Byte) :
    s.setRegsFrom k bs = { s with v := (s.setRegsFrom k bs).v } := by
  induction bs generalizing s k with
  | nil => rfl
  | cons b rest ih => exact ih _ _

/-- A block write that succeeds writes a block that fits. -/
theorem writeBlock_cases {s : State} {base : Nat} {bs : List Byte} {t : State} (h : writeBlock s base bs = .ok t) :
    t = s.setBytesAt base bs ∧ (base + bs.length ≤ Config.memSize ∨ bs.length = 0) := by
  rcases rangeCheck_cases base bs.length .write with ⟨hr, hc⟩ | ⟨_, _, hc⟩
  · simp only [writeBlock, hc] at h
    cases h
    exact ⟨rfl, hr⟩
  · simp [writeBlock, hc] at h

/-- `zext_16` of a 12-bit value is below 4096. -/
theorem zextAddr_le (nnn : Addr) : (zextAddr nnn).toNat ≤ 0xFFF := by
  have := nnn.isLt
  simp [zextAddr]; omega

/-- An ALU instruction's next state. -/
theorem ExecShape.arith (op : AluOp) (x : RegIx) (o : Operand) (s : State) : ExecShape s (arithExec op x o s) := by
  rw [arithExec_eq]; exact .regs _

/-- The shape of an instruction that completes or raises. -/
theorem ExecShape.of_complete {s t : State} {r : Except Fatal State} (h : complete s r = .next t)
    (hok : ∀ u, r = .ok u → ExecShape s u) : ExecShape s t := by
  rcases complete_next s r with ⟨u, hr, hu⟩ | ⟨f, _, hu⟩
  · rw [hu] at h; cases h; exact hok _ hr
  · rw [hu] at h; cases h; exact .raised f

/-- The state after any instruction has one of the shapes. -/
theorem exec_shape {i : Instr} {s t : State} (h : exec i s = .next t) : ExecShape s t := by
  cases i with
  | cls => cases h; exact .cls
  | ret =>
    refine ExecShape.of_complete h fun u hu => ?_
    cases hs : s.stack.getLast? with
    | none => simp [hs] at hu
    | some a =>
      simp only [hs, Except.ok.injEq] at hu
      subst hu
      exact .ret a _ (List.dropLast_append_getLast? a hs).symm
  | jp nnn => cases h; exact .jump _ (by have := zextAddr_le nnn; omega)
  | call nnn =>
    refine ExecShape.of_complete h fun u hu => ?_
    cases hf : s.stackFull with
    | true => simp [hf] at hu
    | false =>
      simp only [hf, Bool.false_eq_true, if_false, Except.ok.injEq] at hu
      subst hu
      exact .call _ (zextAddr_le nnn) hf
  | seImm x nn => cases h; exact .skip _
  | sneImm x nn => cases h; exact .skip _
  | seReg x y => cases h; exact .skip _
  | ldImm x nn => cases h; exact .arith ..
  | addImm x nn => cases h; exact .arith ..
  | ldReg x y => cases h; exact .arith ..
  | orReg x y => cases h; exact .arith ..
  | andReg x y => cases h; exact .arith ..
  | xorReg x y => cases h; exact .arith ..
  | addReg x y => cases h; exact .arith ..
  | sub x y => cases h; exact .arith ..
  | shr x y => cases h; exact .arith ..
  | subn x y => cases h; exact .arith ..
  | shl x y => cases h; exact .arith ..
  | sneReg x y => cases h; exact .skip _
  | ldI nnn => cases h; exact .index s.v _
  | jpV0 nnn =>
    cases h
    refine .jump _ ?_
    have h1 := zextAddr_le nnn
    have h2 := (s.reg (offsetReg s.compat nnn)).isLt
    simp only [zextByte, BitVec.toNat_add, BitVec.toNat_setWidth]
    omega
  | rnd x nn => cases h; exact .regs _
  | drw x y n =>
    refine ExecShape.of_complete h fun u hu => ?_
    split at hu
    · cases hu
    · cases hu; exact .drw _ _ _ _
  | skp x => cases h; exact .skip _
  | sknp x => cases h; exact .skip _
  | ldVxDt x => cases h; exact .regs _
  | ldVxK x =>
    cases h
    split
    · exact .again
    · exact .regs _
  | ldDtVx x => cases h; exact .timers _ s.st
  | ldStVx x => cases h; exact .timers s.dt _
  | addI x => cases h; exact .index s.v _
  | ldF x => cases h; exact .index s.v _
  | ldB x =>
    refine ExecShape.of_complete h fun u hu => ?_
    obtain ⟨rfl, hb⟩ := writeBlock_cases hu
    rw [State.setBytesAt_eq]
    exact .store _ _ s.i (hb.resolve_right (by simp [decimalDigits]))
  | save x =>
    refine ExecShape.of_complete h fun u hu => ?_
    split at hu
    · cases hu
    · next t' ht =>
      obtain ⟨rfl, hb⟩ := writeBlock_cases ht
      cases hu
      rw [State.setBytesAt_eq]
      exact .store _ _ _ (hb.resolve_right (by simp))
  | load x =>
    refine ExecShape.of_complete h fun u hu => ?_
    split at hu
    · cases hu
    · cases hu
      rw [State.setRegsFrom_eq]
      exact .index _ _

end Sys2Proof.Machine
end

