-- ==== Sys2Proof/Laws/PerInstr.lean ====
section
/-! SUPPORT. Sys2Proof/Laws/PerInstr.lean: the family EncodeMatchesRow: the word the encoder writes for an instruction
selects that instruction's row of the opcode map (30_encoding.md R74), one lemma per constructor. -/

namespace Sys2Proof.Laws.EncodeMatchesRow

/-- The row of 30_encoding.md R74 that an instruction belongs to. -/
def row : Instr → OpcodeRow
  | .cls => ⟨0xFFFF#16, 0x00E0#16, .clearDisplay⟩
  | .ret => ⟨0xFFFF#16, 0x00EE#16, .ret⟩
  | .jp _ => ⟨0xF000#16, 0x1000#16, .jump⟩
  | .call _ => ⟨0xF000#16, 0x2000#16, .call⟩
  | .seImm _ _ => ⟨0xF000#16, 0x3000#16, .skipEq .imm⟩
  | .sneImm _ _ => ⟨0xF000#16, 0x4000#16, .skipNe .imm⟩
  | .seReg _ _ => ⟨0xF00F#16, 0x5000#16, .skipEq .reg⟩
  | .ldImm _ _ => ⟨0xF000#16, 0x6000#16, .arith .set .imm⟩
  | .addImm _ _ => ⟨0xF000#16, 0x7000#16, .arith .add .imm⟩
  | .ldReg _ _ => ⟨0xF00F#16, 0x8000#16, .arith .set .reg⟩
  | .orReg _ _ => ⟨0xF00F#16, 0x8001#16, .arith .or .reg⟩
  | .andReg _ _ => ⟨0xF00F#16, 0x8002#16, .arith .and .reg⟩
  | .xorReg _ _ => ⟨0xF00F#16, 0x8003#16, .arith .xor .reg⟩
  | .addReg _ _ => ⟨0xF00F#16, 0x8004#16, .arith .add .reg⟩
  | .sub _ _ => ⟨0xF00F#16, 0x8005#16, .arith .sub .reg⟩
  | .shr _ _ => ⟨0xF00F#16, 0x8006#16, .arith .shr .reg⟩
  | .subn _ _ => ⟨0xF00F#16, 0x8007#16, .arith .subRev .reg⟩
  | .shl _ _ => ⟨0xF00F#16, 0x800E#16, .arith .shl .reg⟩
  | .sneReg _ _ => ⟨0xF00F#16, 0x9000#16, .skipNe .reg⟩
  | .ldI _ => ⟨0xF000#16, 0xA000#16, .setIndex⟩
  | .jpV0 _ => ⟨0xF000#16, 0xB000#16, .jumpOffset⟩
  | .rnd _ _ => ⟨0xF000#16, 0xC000#16, .randomMask⟩
  | .drw _ _ _ => ⟨0xF000#16, 0xD000#16, .draw⟩
  | .skp _ => ⟨0xF0FF#16, 0xE09E#16, .skipKey⟩
  | .sknp _ => ⟨0xF0FF#16, 0xE0A1#16, .skipNotKey⟩
  | .ldVxDt _ => ⟨0xF0FF#16, 0xF007#16, .readDelay⟩
  | .ldVxK _ => ⟨0xF0FF#16, 0xF00A#16, .waitKey⟩
  | .ldDtVx _ => ⟨0xF0FF#16, 0xF015#16, .setDelay⟩
  | .ldStVx _ => ⟨0xF0FF#16, 0xF018#16, .setSound⟩
  | .addI _ => ⟨0xF0FF#16, 0xF01E#16, .addIndex⟩
  | .ldF _ => ⟨0xF0FF#16, 0xF029#16, .fontGlyph⟩
  | .ldB _ => ⟨0xF0FF#16, 0xF033#16, .decimal⟩
  | .save _ => ⟨0xF0FF#16, 0xF055#16, .saveRegs⟩
  | .load _ => ⟨0xF0FF#16, 0xF065#16, .loadRegs⟩

/-- The row is one of the opcode map, and the instruction's word selects it. -/
def Statement (i : Instr) : Prop := row i ∈ opcodeRows ∧ (row i).selects (encode i) = true

/-- Format NNN: the class nibble is the fixed part (30_encoding.md R70). -/
theorem mask_nnn (c : BitVec 4) (nnn : Addr) : c ++ nnn &&& 0xF000#(4 + 12) = c ++ 0#12 := by
  refine BitVec.eq_of_getLsbD_eq fun k hk => ?_
  simp only [BitVec.getLsbD_and, BitVec.getLsbD_append]
  interval_cases k <;> simp

/-- Format XNN: the class nibble is the fixed part (30_encoding.md R70). -/
theorem mask_xnn (c : BitVec 4) (x : RegIx) (nn : Byte) : c ++ x ++ nn &&& 0xF000#(4 + 4 + 8) = c ++ 0#4 ++ 0#8 := by
  refine BitVec.eq_of_getLsbD_eq fun k hk => ?_
  simp only [BitVec.getLsbD_and, BitVec.getLsbD_append]
  interval_cases k <;> simp

/-- Format XYN: the class nibble is the fixed part (30_encoding.md R70). -/
theorem mask_xyn (c : BitVec 4) (x y : RegIx) (n : Nibble) :
    c ++ x ++ y ++ n &&& 0xF000#(4 + 4 + 4 + 4) = c ++ 0#4 ++ 0#4 ++ 0#4 := by
  refine BitVec.eq_of_getLsbD_eq fun k hk => ?_
  simp only [BitVec.getLsbD_and, BitVec.getLsbD_append]
  interval_cases k <;> simp

/-- Format XY: the class nibble and the bottom nibble are the fixed part (30_encoding.md R70). -/
theorem mask_xy (c : BitVec 4) (x y : RegIx) (sub : BitVec 4) :
    c ++ x ++ y ++ sub &&& 0xF00F#(4 + 4 + 4 + 4) = c ++ 0#4 ++ 0#4 ++ sub := by
  refine BitVec.eq_of_getLsbD_eq fun k hk => ?_
  simp only [BitVec.getLsbD_and, BitVec.getLsbD_append]
  interval_cases k <;> simp

/-- Format X: the class nibble and the bottom byte are the fixed part (30_encoding.md R70). -/
theorem mask_x (c : BitVec 4) (x : RegIx) (sub : BitVec 8) :
    c ++ x ++ sub &&& 0xF0FF#(4 + 4 + 8) = c ++ 0#4 ++ sub := by
  refine BitVec.eq_of_getLsbD_eq fun k hk => ?_
  simp only [BitVec.getLsbD_and, BitVec.getLsbD_append]
  interval_cases k <;> simp

/-- Every instruction's row is one of the opcode map. -/
theorem row_mem (i : Instr) : row i ∈ opcodeRows := by
  cases i <;> simp [row, opcodeRows, opcodeRowsLow, opcodeRowsAlu, opcodeRowsMid, opcodeRowsHigh]

/-- A row of the opcode map and its word, put together. -/
theorem of_mask {i : Instr} (h : encode i &&& (row i).mask = (row i).value) : Statement i :=
  ⟨row_mem i, beq_iff_eq.mpr h⟩

theorem cls : Statement (.cls) :=
  of_mask (rfl)

theorem ret : Statement (.ret) :=
  of_mask (rfl)

theorem jp (nnn : Addr) : Statement (.jp nnn) :=
  of_mask (mask_nnn _ nnn)

theorem call (nnn : Addr) : Statement (.call nnn) :=
  of_mask (mask_nnn _ nnn)

theorem seImm (x : RegIx) (nn : Byte) : Statement (.seImm x nn) :=
  of_mask (mask_xnn _ x nn)

theorem sneImm (x : RegIx) (nn : Byte) : Statement (.sneImm x nn) :=
  of_mask (mask_xnn _ x nn)

theorem seReg (x : RegIx) (y : RegIx) : Statement (.seReg x y) :=
  of_mask (mask_xy _ x y _)

theorem ldImm (x : RegIx) (nn : Byte) : Statement (.ldImm x nn) :=
  of_mask (mask_xnn _ x nn)

theorem addImm (x : RegIx) (nn : Byte) : Statement (.addImm x nn) :=
  of_mask (mask_xnn _ x nn)

theorem ldReg (x : RegIx) (y : RegIx) : Statement (.ldReg x y) :=
  of_mask (mask_xy _ x y _)

theorem orReg (x : RegIx) (y : RegIx) : Statement (.orReg x y) :=
  of_mask (mask_xy _ x y _)

theorem andReg (x : RegIx) (y : RegIx) : Statement (.andReg x y) :=
  of_mask (mask_xy _ x y _)

theorem xorReg (x : RegIx) (y : RegIx) : Statement (.xorReg x y) :=
  of_mask (mask_xy _ x y _)

theorem addReg (x : RegIx) (y : RegIx) : Statement (.addReg x y) :=
  of_mask (mask_xy _ x y _)

theorem sub (x : RegIx) (y : RegIx) : Statement (.sub x y) :=
  of_mask (mask_xy _ x y _)

theorem shr (x : RegIx) (y : RegIx) : Statement (.shr x y) :=
  of_mask (mask_xy _ x y _)

theorem subn (x : RegIx) (y : RegIx) : Statement (.subn x y) :=
  of_mask (mask_xy _ x y _)

theorem shl (x : RegIx) (y : RegIx) : Statement (.shl x y) :=
  of_mask (mask_xy _ x y _)

theorem sneReg (x : RegIx) (y : RegIx) : Statement (.sneReg x y) :=
  of_mask (mask_xy _ x y _)

theorem ldI (nnn : Addr) : Statement (.ldI nnn) :=
  of_mask (mask_nnn _ nnn)

theorem jpV0 (nnn : Addr) : Statement (.jpV0 nnn) :=
  of_mask (mask_nnn _ nnn)

theorem rnd (x : RegIx) (nn : Byte) : Statement (.rnd x nn) :=
  of_mask (mask_xnn _ x nn)

theorem drw (x : RegIx) (y : RegIx) (n : Nibble) : Statement (.drw x y n) :=
  of_mask (mask_xyn _ x y n)

theorem skp (x : RegIx) : Statement (.skp x) :=
  of_mask (mask_x _ x _)

theorem sknp (x : RegIx) : Statement (.sknp x) :=
  of_mask (mask_x _ x _)

theorem ldVxDt (x : RegIx) : Statement (.ldVxDt x) :=
  of_mask (mask_x _ x _)

theorem ldVxK (x : RegIx) : Statement (.ldVxK x) :=
  of_mask (mask_x _ x _)

theorem ldDtVx (x : RegIx) : Statement (.ldDtVx x) :=
  of_mask (mask_x _ x _)

theorem ldStVx (x : RegIx) : Statement (.ldStVx x) :=
  of_mask (mask_x _ x _)

theorem addI (x : RegIx) : Statement (.addI x) :=
  of_mask (mask_x _ x _)

theorem ldF (x : RegIx) : Statement (.ldF x) :=
  of_mask (mask_x _ x _)

theorem ldB (x : RegIx) : Statement (.ldB x) :=
  of_mask (mask_x _ x _)

theorem save (x : RegIx) : Statement (.save x) :=
  of_mask (mask_x _ x _)

theorem load (x : RegIx) : Statement (.load x) :=
  of_mask (mask_x _ x _)

end Sys2Proof.Laws.EncodeMatchesRow
end

