-- ==== Sys2Proof/Tests/Slice0.lean ====
section
/-! SUPPORT. Sys2Proof/Tests/Slice0.lean: the model's own tests. Expected results are the spec's: its worked examples
and derived vectors (95_test_vectors.md S1 to S10, V1 to V7) and the examples of the instruction rules. The second half
shows, for each obligation with hypotheses, concrete data that meets them. -/

namespace Sys2Proof.Tests
open Sys2Proof Sys2Proof.Machine

/-! ## Well-formedness: one ill-formed term per check -/

/-- The descriptor of 0x8AB4 (95_test_vectors.md S1). -/
def good : Descriptor :=
  { tag := .arith .add .reg, x := 0xA#4, y := 0xB#4, n := 0x4#4, nn := 0xB4#8, nnn := 0xAB4#12 }

theorem test_wf_accepts : good.wf = true := by decide
theorem test_wf_refuses_nn : { good with nn := 0xB5#8 }.nnAgrees = false := by decide
theorem test_wf_refuses_nnn : { good with nnn := 0xBB4#12 }.nnnAgrees = false := by decide
theorem test_wf_refuses_tag : { good with tag := .arith .xor .imm }.tagOccurs = false := by decide
theorem test_wf_refuses_together : { good with tag := .arith .shl .imm }.wf = false := by decide
theorem test_wf_refuses_keychoice : StepInputs.wf { keys := 0x8001#16, rnd := 0#8, keyChoice := 3#4 } = false := by decide
theorem test_wf_accepts_keychoice : StepInputs.wf { keys := 0x8001#16, rnd := 0#8, keyChoice := 15#4 } = true := by
  decide
theorem test_wf_image_limit :
    imageWf (List.replicate 3583 1#8) = true ∧ imageWf (List.replicate 3584 1#8) = false := by
  simp only [imageWf, List.length_replicate]
  decide

/-! ## Decoding: words written out from 30_encoding.md R70 and R74 (95_test_vectors.md S1, V1) -/

theorem test_decode_cls : decodeWord 0b0000000011100000#16 = .ok .cls := by decide
theorem test_decode_ret : decodeWord 0b0000000011101110#16 = .ok .ret := by decide
theorem test_decode_jp : decodeWord 0b0001101010111100#16 = .ok (.jp 0xABC) := by decide
theorem test_decode_call : decodeWord 0b0010101010111100#16 = .ok (.call 0xABC) := by decide
theorem test_decode_seImm : decodeWord 0b0011101010111100#16 = .ok (.seImm 0xA 0xBC) := by decide
theorem test_decode_sneImm : decodeWord 0b0100101010111100#16 = .ok (.sneImm 0xA 0xBC) := by decide
theorem test_decode_seReg : decodeWord 0b0101000100100000#16 = .ok (.seReg 1 2) := by decide
theorem test_decode_ldImm : decodeWord 0b0110101010111100#16 = .ok (.ldImm 0xA 0xBC) := by decide
theorem test_decode_addImm : decodeWord 0b0111101010111100#16 = .ok (.addImm 0xA 0xBC) := by decide
theorem test_decode_ldReg : decodeWord 0b1000101010110000#16 = .ok (.ldReg 0xA 0xB) := by decide
theorem test_decode_orReg : decodeWord 0b1000101010110001#16 = .ok (.orReg 0xA 0xB) := by decide
theorem test_decode_andReg : decodeWord 0b1000101010110010#16 = .ok (.andReg 0xA 0xB) := by decide
theorem test_decode_xorReg : decodeWord 0b1000101010110011#16 = .ok (.xorReg 0xA 0xB) := by decide
theorem test_decode_addReg : decodeWord 0b1000101010110100#16 = .ok (.addReg 0xA 0xB) := by decide
theorem test_decode_sub : decodeWord 0b1000101010110101#16 = .ok (.sub 0xA 0xB) := by decide
theorem test_decode_shr : decodeWord 0b1000101010110110#16 = .ok (.shr 0xA 0xB) := by decide
theorem test_decode_subn : decodeWord 0b1000101010110111#16 = .ok (.subn 0xA 0xB) := by decide
theorem test_decode_shl : decodeWord 0b1000101010111110#16 = .ok (.shl 0xA 0xB) := by decide
theorem test_decode_sneReg : decodeWord 0b1001101010110000#16 = .ok (.sneReg 0xA 0xB) := by decide
theorem test_decode_ldI : decodeWord 0b1010101010111100#16 = .ok (.ldI 0xABC) := by decide
theorem test_decode_jpV0 : decodeWord 0b1011000100100011#16 = .ok (.jpV0 0x123) := by decide
theorem test_decode_rnd : decodeWord 0b1100101010111100#16 = .ok (.rnd 0xA 0xBC) := by decide
theorem test_decode_drw : decodeWord 0b1101000100100011#16 = .ok (.drw 1 2 3) := by decide
theorem test_decode_skp : decodeWord 0b1110000110011110#16 = .ok (.skp 1) := by decide
theorem test_decode_sknp : decodeWord 0b1110111110100001#16 = .ok (.sknp 0xF) := by decide
theorem test_decode_ldVxDt : decodeWord 0b1111101000000111#16 = .ok (.ldVxDt 0xA) := by decide
theorem test_decode_ldVxK : decodeWord 0b1111000000001010#16 = .ok (.ldVxK 0) := by decide
theorem test_decode_ldDtVx : decodeWord 0b1111101000010101#16 = .ok (.ldDtVx 0xA) := by decide
theorem test_decode_ldStVx : decodeWord 0b1111101000011000#16 = .ok (.ldStVx 0xA) := by decide
theorem test_decode_addI : decodeWord 0b1111101000011110#16 = .ok (.addI 0xA) := by decide
theorem test_decode_ldF : decodeWord 0b1111101000101001#16 = .ok (.ldF 0xA) := by decide
theorem test_decode_ldB : decodeWord 0b1111101000110011#16 = .ok (.ldB 0xA) := by decide
theorem test_decode_save : decodeWord 0b1111101001010101#16 = .ok (.save 0xA) := by decide
theorem test_decode_load : decodeWord 0b1111000101100101#16 = .ok (.load 1) := by decide

/-- The near misses of 95_test_vectors.md V1. -/
theorem test_decode_near_misses :
    decodeWord 0x0000#16 = .error (.unrecognized 0x0000#16) ∧
    decodeWord 0x00E1#16 = .error (.unrecognized 0x00E1#16) ∧
    decodeWord 0x0123#16 = .error (.unrecognized 0x0123#16) ∧
    decodeWord 0x5121#16 = .error (.unrecognized 0x5121#16) ∧
    decodeWord 0x8AB8#16 = .error (.unrecognized 0x8AB8#16) ∧
    decodeWord 0x800F#16 = .error (.unrecognized 0x800F#16) ∧
    decodeWord 0x9AB1#16 = .error (.unrecognized 0x9AB1#16) ∧
    decodeWord 0xE19F#16 = .error (.unrecognized 0xE19F#16) ∧
    decodeWord 0xF0FF#16 = .error (.unrecognized 0xF0FF#16) ∧
    decodeWord 0xFFFF#16 = .error (.unrecognized 0xFFFF#16) :=
  ⟨rfl, rfl, rfl, rfl, rfl, rfl, rfl, rfl, rfl, rfl⟩

/-- The five fields of 0x00EE, a word that uses none of them (95_test_vectors.md S1). -/
theorem test_decode_fields :
    decode 0x00EE#16 = { tag := .ret, x := 0x0, y := 0xE, n := 0xE, nn := 0xEE, nnn := 0x0EE } := by decide

/-- The high byte stands first (20_memory.md R54). -/
theorem test_decode_bytes : decodeBytes [0xD1#8, 0x23#8, 0x77#8] = .ok (.drw 1 2 3, [0x77#8]) := by decide
theorem test_decode_truncated : decodeBytes [0xD1#8] = .error .truncated := by decide
theorem test_encode_shl : encode (.shl 0xA 0xB) = 0x8ABE#16 := by decide
theorem test_table_word : decodeTableWord 16 0xF233 = some (.ldB 2) := by decide

/-! ## One STEP, in the conventions of 95_test_vectors.md -/

/-- No key pressed. -/
def noKeys : StepInputs := { keys := 0#16, rnd := 0#8, keyChoice := 0#4 }

/-- Inputs with keys pressed. -/
def pressing (keys : BitVec 16) (choice : BitVec 4) : StepInputs := { keys := keys, rnd := 0#8, keyChoice := choice }

/-- The state after LOAD of the empty image, with font bytes that can be evaluated. -/
def fresh : State := { State.reset with params := { stackDepth := none, font := Config.conventionalFont } }

/-- A state with registers set. -/
def withRegs (rs : List (RegIx × Byte)) (s : State) : State := rs.foldl (fun t r => t.setReg r.1 r.2) s

/-- A state with bytes of memory set. -/
def withBytes (base : Nat) (bytes : List Byte) (s : State) : State := s.setBytesAt base bytes

/-- A state with cells set. -/
def withCells (cs : List (Fin 64 × Fin 32 × Byte)) (s : State) : State :=
  { s with fb := cs.foldl (fun fb c => setCell fb c.1 c.2.1 c.2.2) s.fb }

/-- The state after one STEP of a word placed at PC, or the state before where there is none. -/
def ran (inputs : StepInputs) (w : Word) (s : State) : State :=
  match stepOp inputs (placeWord s w) with
  | .next t => t
  | .fault _ | .refused _ => s

/-! ### Control transfer (V2) -/

theorem test_jp : (ran noKeys 0x1234#16 fresh).pc = 0x234#16 := by decide
theorem test_jp_past_memory :
    fetch (ran noKeys 0x1FFF#16 fresh) = .error (.memoryOutOfRange 0x1000 .fetch) := by rfl
theorem test_call :
    (ran noKeys 0x2300#16 fresh).stack = [0x202#16] ∧ (ran noKeys 0x2300#16 fresh).pc = 0x300#16 := by decide
theorem test_call_full :
    (ran noKeys 0x2300#16 { fresh with params := { fresh.params with stackDepth := some 1 }, stack := [0x400#16] }).fault
      = some (.stackOverflow 0x200#16) := by decide
theorem test_ret : (ran noKeys 0x00EE#16 { fresh with stack := [0x345#16, 0x222#16] }).pc = 0x222#16 ∧
    (ran noKeys 0x00EE#16 { fresh with stack := [0x345#16, 0x222#16] }).stack = [0x345#16] := by decide
theorem test_ret_empty : (ran noKeys 0x00EE#16 fresh).fault = some (.stackUnderflow 0x200#16) ∧
    (ran noKeys 0x00EE#16 fresh).pc = 0x200#16 ∧ (ran noKeys 0x00EE#16 fresh).run = .halted := by decide
theorem test_jpV0_compat :
    (ran noKeys 0xB300#16 (withRegs [(0, 0x10), (3, 0x05)] { fresh with compat := true })).pc = 0x310#16 := by decide
theorem test_jpV0_native : (ran noKeys 0xB300#16 (withRegs [(0, 0x10), (3, 0x05)] fresh)).pc = 0x305#16 ∧
    (ran noKeys 0xBFFF#16 (withRegs [(0xF, 0xFF)] fresh)).pc = 0x10FE#16 := by decide
/-- The skipped word is not decoded (41_control_flow.md R109). -/
theorem test_seImm : (ran noKeys 0x3142#16 (withRegs [(1, 0x42)] fresh)).pc = 0x204#16 ∧
    (ran noKeys 0x3000#16 (withBytes 0x202 [0xFF, 0xFF] fresh)).pc = 0x204#16 := by decide
theorem test_seImm_not : (ran noKeys 0x3142#16 (withRegs [(1, 0x41)] fresh)).pc = 0x202#16 := by decide
theorem test_sneImm : (ran noKeys 0x4142#16 (withRegs [(1, 0x41)] fresh)).pc = 0x204#16 := by decide
theorem test_sneImm_not : (ran noKeys 0x4142#16 (withRegs [(1, 0x42)] fresh)).pc = 0x202#16 := by decide
theorem test_seReg : (ran noKeys 0x5230#16 (withRegs [(2, 7), (3, 7)] fresh)).pc = 0x204#16 := by decide
theorem test_seReg_not : (ran noKeys 0x5230#16 (withRegs [(2, 7), (3, 8)] fresh)).pc = 0x202#16 := by decide
theorem test_sneReg : (ran noKeys 0x9230#16 (withRegs [(2, 7), (3, 8)] fresh)).pc = 0x204#16 := by decide
theorem test_sneReg_not : (ran noKeys 0x9120#16 (withRegs [(1, 1), (2, 1)] fresh)).pc = 0x202#16 := by decide

/-! ### ALU (S2, S9, V3) -/

theorem test_alu_examples :
    alu 0xFF#8 0x01#8 .add false = (0x00#8, some true) ∧ alu 0x01#8 0x01#8 .add false = (0x02#8, some false) ∧
    alu 0x05#8 0x03#8 .sub false = (0x02#8, some true) ∧ alu 0x03#8 0x05#8 .sub false = (0xFE#8, some false) ∧
    alu 0x81#8 0x02#8 .shl false = (0x02#8, some true) ∧ alu 0x81#8 0x02#8 .shl true = (0x04#8, some false) := by decide

/-- V[x], V[y] and VF after one STEP of a word that names VA and VB. -/
def abf (w : Word) (compat : Bool) (a b f : Byte) : List Byte :=
  let t := ran noKeys w (withRegs [(0xA, a), (0xB, b), (0xF, f)] { fresh with compat := compat })
  [t.reg 0xA, t.reg 0xB, t.reg 0xF]

theorem test_ldReg : abf 0x8AB0#16 false 0x00 0x99 7 = [0x99, 0x99, 7] := by decide
theorem test_orReg : abf 0x8AB1#16 false 0xF0 0x0F 7 = [0xFF, 0x0F, 7] := by decide
theorem test_orReg_into_vf : abf 0x8FB1#16 false 0x00 0x01 0x10 = [0x00, 0x01, 0x11] := by decide
theorem test_andReg : abf 0x8AB2#16 false 0xF0 0x3C 7 = [0x30, 0x3C, 7] := by decide
theorem test_xorReg : abf 0x8AB3#16 false 0xFF 0x0F 7 = [0xF0, 0x0F, 7] := by decide
theorem test_addReg : abf 0x8AB4#16 false 0x80 0x80 0 = [0x00, 0x80, 1] := by decide
theorem test_addReg_flag_wins : abf 0x8FA4#16 false 0x01 0x00 0xFF = [0x01, 0x00, 0x01] ∧
    abf 0x8FA4#16 false 0x01 0x00 0x01 = [0x01, 0x00, 0x00] := by decide
theorem test_sub : abf 0x8AB5#16 false 0x03 0x05 7 = [0xFE, 0x05, 0] := by decide
theorem test_sub_equal : abf 0x8AB5#16 false 0x07 0x07 0 = [0x00, 0x07, 1] := by decide
theorem test_subn : abf 0x8AB7#16 false 0x03 0x05 0 = [0x02, 0x05, 1] := by decide
theorem test_subn_borrow : abf 0x8AB7#16 false 0x05 0x03 7 = [0xFE, 0x03, 0] := by decide
theorem test_shr : abf 0x8AB6#16 false 0x81 0x02 0 = [0x40, 0x02, 1] := by decide
theorem test_shr_compat : abf 0x8AB6#16 true 0x81 0x02 7 = [0x01, 0x02, 0] := by decide
theorem test_shl : abf 0x8ABE#16 false 0x81 0x02 0 = [0x02, 0x02, 1] := by decide
theorem test_shl_compat : abf 0x8ABE#16 true 0x40 0x80 0 = [0x00, 0x80, 1] := by decide
theorem test_addImm : abf 0x7AFF#16 false 0x01 0x00 0x00 = [0x00, 0x00, 0x01] := by decide
theorem test_addImm_vf : abf 0x7F01#16 false 0x00 0x00 0xFF = [0x00, 0x00, 0x01] ∧
    abf 0x7F01#16 false 0x00 0x00 0x10 = [0x00, 0x00, 0x00] := by decide
theorem test_ldImm : abf 0x6A00#16 false 0x77 0x00 5 = [0x00, 0x00, 5] := by decide
theorem test_ldImm_vf : abf 0x6F42#16 false 0x00 0x00 5 = [0x00, 0x00, 0x42] := by decide

/-! ### Display (S3, S4, S8, S10, V4) -/

/-- The cells of row y at the columns of a list. -/
def cellsAt (s : State) (cs : List (Fin 64 × Fin 32)) : List Byte := cs.map fun c => cell s.fb c.1 c.2

/-- I = 0x300 with one sprite byte there. -/
def sprite (b : Byte) (rs : List (RegIx × Byte)) : State :=
  withRegs rs (withBytes 0x300 [b] { fresh with i := 0x300#16 })

theorem test_cls : cellsAt (ran noKeys 0x00E0#16 (withCells [(5, 6, 0x37), (63, 31, 0xFF)] fresh)) [(5, 6), (63, 31)]
    = [0, 0] := by decide +kernel
/-- A lit cell collides, a dark and a fading one do not (90_conflicts.md C8), bit 7 is the leftmost column; the second
draw of S3. -/
theorem test_drw_flips :
    cellsAt (ran noKeys 0xD011#16 (sprite 0xFF [])) [(0, 0), (7, 0), (8, 0), (0, 1)] = [0xFF, 0xFF, 0, 0] ∧
    (let s := ran noKeys 0xD011#16 (withCells [(0, 0, 0xFF)] (sprite 0xC0 []))
     cellsAt s [(0, 0), (1, 0)] = [0xF7, 0xFF] ∧ s.reg 0xF = 1) ∧
    (let s := ran noKeys 0xD011#16 (withCells [(0, 0, 0x37), (1, 0, 0xFF)] (sprite 0x80 []))
     cellsAt s [(0, 0), (1, 0)] = [0xFF, 0xFF] ∧ s.reg 0xF = 0) := by decide +kernel
/-- The start wraps and the sprite does not, n = 0 never faults and clears VF, a clipped row is still checked. -/
theorem test_drw_edges :
    cellsAt (ran noKeys 0xD011#16 (sprite 0xFF [(0, 63), (1, 31)])) [(63, 31), (0, 31), (63, 0), (0, 0)] = [0xFF, 0, 0, 0] ∧
    cellsAt (ran noKeys 0xD011#16 (sprite 0x80 [(0, 0x45), (1, 0x21)])) [(5, 1), (6, 1)] = [0xFF, 0] ∧
    (ran noKeys 0xD010#16 (withRegs [(0xF, 1)] { fresh with i := 0xFFFF#16 })).reg 0xF = 0 ∧
    (ran noKeys 0xD012#16 (withRegs [(1, 31)] { fresh with i := 0xFFF#16 })).fault
      = some (.memoryOutOfRange 0x1000 .read) := by decide +kernel
/-- The rows of 95_test_vectors.md S8 and V4. -/
theorem test_fade_cells : [0xF7#8, 0x07, 0x08, 0x09, 0xFF, 0x00].map fadeCell = [0xEF, 0x00, 0x00, 0x01, 0xFF, 0x00] := by
  decide

/-! ### Index register and memory (S5, V5) -/

theorem test_ldI : (ran noKeys 0xA2F0#16 fresh).i = 0x2F0#16 := by decide
theorem test_addI : (ran noKeys 0xF11E#16 (withRegs [(1, 2)] { fresh with i := 0xFFFF#16 })).i = 0x0001#16 := by decide
theorem test_addI_no_flag :
    let s := ran noKeys 0xF11E#16 (withRegs [(1, 1)] { fresh with i := 0x0FFF#16 })
    s.i = 0x1000#16 ∧ s.reg 0xF = 0 ∧ s.run = .running := by decide
theorem test_ldF : (ran noKeys 0xF029#16 (withRegs [(0, 0x0F)] fresh)).i = 0x09B#16 := by decide
theorem test_ldF_unmasked : (ran noKeys 0xF029#16 (withRegs [(0, 0xFF)] fresh)).i = 0x54B#16 := by decide
theorem test_ldB :
    let s := ran noKeys 0xF033#16 (withRegs [(0, 255)] { fresh with i := 0x300#16 })
    s.bytesAt 0x300 3 = [2, 5, 5] ∧ s.i = 0x300#16 := by decide
theorem test_ldB_past_memory :
    let s := ran noKeys 0xF033#16 (withRegs [(0, 1)] { fresh with i := 0xFFE#16 })
    s.fault = some (.memoryOutOfRange 0x1000 .write) ∧ s.bytesAt 0xFFE 2 = [0, 0] := by decide
theorem test_save :
    let s := ran noKeys 0xF255#16 (withRegs [(0, 1), (1, 2), (2, 3), (3, 4)] { fresh with i := 0x300#16 })
    s.bytesAt 0x300 4 = [1, 2, 3, 0] ∧ s.i = 0x303#16 := by decide
theorem test_save_past_memory :
    let s := ran noKeys 0xFF55#16 { fresh with i := 0xFF1#16 }
    s.fault = some (.memoryOutOfRange 0x1000 .write) ∧ s.i = 0xFF1#16 := by decide
theorem test_load :
    let s := ran noKeys 0xF165#16 (withBytes 0x300 [0xAB, 0xCD, 0xEF] { fresh with i := 0x300#16 })
    [s.reg 0, s.reg 1, s.reg 2] = [0xAB, 0xCD, 0] ∧ s.i = 0x302#16 := by decide
theorem test_load_past_memory : (ran noKeys 0xF065#16 { fresh with i := 0x1000#16 }).fault
    = some (.memoryOutOfRange 0x1000 .read) := by decide

/-! ### Timers, keys, random (S6, V6) -/

theorem test_ldVxDt : (ran noKeys 0xF307#16 { fresh with dt := 0x3C }).reg 3 = 0x3C := by decide
theorem test_ldDtVx : (ran noKeys 0xF315#16 (withRegs [(3, 0x3C)] fresh)).dt = 0x3C := by decide
theorem test_ldStVx : (ran noKeys 0xF418#16 (withRegs [(4, 2)] fresh)).st = 2 := by decide
theorem test_skp_low_nibble : (ran (pressing 0x0400 0) 0xE19E#16 (withRegs [(1, 0x1A)] fresh)).pc = 0x204#16 := by decide
theorem test_skp_not : (ran noKeys 0xE19E#16 (withRegs [(1, 5)] fresh)).pc = 0x202#16 := by decide
theorem test_sknp : (ran (pressing 0xFFFE 1) 0xEFA1#16 fresh).pc = 0x204#16 := by decide
theorem test_sknp_not : (ran (pressing 0x0020 5) 0xE1A1#16 (withRegs [(1, 5)] fresh)).pc = 0x202#16 := by decide
theorem test_ldVxK_waits : (ran noKeys 0xF00A#16 fresh).pc = 0x200#16 := by decide
theorem test_ldVxK_choice : (ran (pressing 0x8001 15) 0xF30A#16 fresh).reg 3 = 0x0F ∧
    (ran (pressing 0x8001 0) 0xF30A#16 (withRegs [(3, 9)] fresh)).reg 3 = 0 := by decide
theorem test_rnd : (ran { noKeys with rnd := 0xA7 } 0xC30F#16 fresh).reg 3 = 0x07 := by decide
theorem test_rnd_high : (ran { noKeys with rnd := 0xA7 } 0xC3F0#16 fresh).reg 3 = 0xA0 := by decide
theorem test_tick_floor : tickOp fresh = .next (fresh, .sound false) := by rfl
theorem test_tick_sound : tickOp { fresh with st := 1 } = .next (fresh, .sound false) ∧
    tickOp { fresh with dt := 5, st := 2 } = .next ({ fresh with dt := 4, st := 1 }, .sound true) := ⟨rfl, rfl⟩

/-! ### LOAD, fetch and the fatal conditions (S7, V7) -/

theorem test_unrecognized : (ran noKeys 0x0123#16 fresh).fault = some (.unrecognizedInstruction 0x0123#16 0x200#16) ∧
    (ran noKeys 0x0123#16 fresh).pc = 0x200#16 := by decide
theorem test_last_fetchable : (ran noKeys 0x1200#16 { fresh with pc := 0xFFE#16 }).pc = 0x200#16 := by decide
theorem test_odd_fetch : (ran noKeys 0x1200#16 { fresh with pc := 0x201#16 }).pc = 0x200#16 := by decide
theorem test_fetch_past_memory : ∃ t, stepOp noKeys { fresh with pc := 0x1000#16 } = .next t ∧
    t.fault = some (.memoryOutOfRange 0x1000 .fetch) ∧ t.pc = 0x1000#16 := ⟨_, rfl, by decide, by decide⟩
theorem test_halted : stepOp noKeys { fresh with run := .halted } = .fault (.halted none) := rfl
theorem test_load_op : ∃ t, loadOp [0x12, 0x00] false { fresh with run := .unloaded } = .next t ∧
    t.bytesAt 0x200 3 = [0x12, 0, 0] ∧ t.bytesAt 0x050 2 = [0xF0, 0x90] ∧ t.run = .running :=
  ⟨_, rfl, by decide, by decide, by decide⟩
theorem test_cause_codes :
    [Fatal.unrecognizedInstruction 0 0, .stackUnderflow 0, .memoryOutOfRange 0 .read, .stackOverflow 0, .imageTooLarge 0].map
      causeCode = [1, 2, 3, 4, 5] := by decide
/-- The very next step after withFetchWord runs the word, on the state after reset and on a halted one. -/
theorem test_withFetchWord :
    (∃ t, step (State.reset.withFetchWord 16 0x1234) = .next t ∧ t.pc = 0x234#16) ∧
    ∃ t, step ({ State.reset with run := .halted, pc := 0x1000#16 }.withFetchWord 16 0xA2F0) = .next t ∧ t.i = 0x2F0#16 :=
  ⟨⟨_, rfl, by decide⟩, _, rfl, by decide⟩
/-- The step applies the operation that stands first: a TICK, not a STEP, and leaves the next for the step after. -/
theorem test_step_applies_driver : ∃ t, step { fresh with dt := 5, driver := [.tick, .fade] } = .next t ∧
    t.dt = 4 ∧ t.pc = 0x200#16 ∧ t.driver = [.fade] := ⟨_, rfl, by decide, by decide, by decide⟩
theorem test_core : core.step = step ∧ core.reset = State.reset := ⟨rfl, rfl⟩

/-! ## Witnesses: for each obligation with hypotheses, data that meets them

A hypothesis on an invariant is met by a state that is not the reset state. Where a statement has clauses over a range,
each clause has a witness at the boundary. -/

/-- A lit, fading, stored-to, called-from state whose driver ticks next. -/
def busy : State :=
  { fresh with
    stack := [0x1000#16]
    pc := 0x10FE#16
    dt := 9
    driver := [.tick]
    params := { fresh.params with stackDepth := some 1 }
    mem := [(0x200, 0x60), (0x201, 0x05), (0xFFF, 0x12)]
    fb := setCell (setCell blankFb 3 4 0xFF) 63 31 0x07 }

theorem witness_EncodeOfDecodeIsIdentity : decodeWord 0xFA65#16 = .ok (.load 0xA) := by decide
theorem witness_DecoderAgreesWithOpcodeMap :
    (⟨0xF00F#16, 0x800E#16, .arith .shl .reg⟩ : OpcodeRow) ∈ opcodeRows ∧
    (⟨0xF00F#16, 0x800E#16, .arith .shl .reg⟩ : OpcodeRow).selects 0x8ABE#16 = true ∧
    ∀ r ∈ opcodeRows, r.selects 0x8ABF#16 = false := by decide +kernel
/-- An empty list of the driver, each operation at its head, and PC at its last fetchable value with a STEP due. -/
theorem witness_StepRunsDecodedInstruction :
    let s := withBytes 0xFFE [0x60, 0x05] { fresh with pc := 0xFFE#16, driver := [.step noKeys, .fade] }
    (s.run = .running ∧ fetchable s ∧ decodeWord (wordAtPc s) = .ok (.ldImm 0 5) ∧
      s.driver = .step noKeys :: [.fade]) ∧
    busy.driver = .tick :: [] ∧ fresh.driver = [] ∧
    { fresh with driver := [.fade, .fbread] }.driver = .fade :: [.fbread] ∧
    { fresh with driver := [.fbread] }.driver = .fbread :: [] ∧
    { fresh with driver := [.load [0x60] true, .tick] }.driver = .load [0x60] true :: [.tick] :=
  ⟨⟨rfl, (by decide : (0xFFE#16).toNat ≤ 0xFFE), by decide, rfl⟩, rfl, rfl, rfl, rfl, rfl⟩
theorem witness_FetchAndDecodeFaults :
    (fresh.run = .running ∧ 0xFFE < { fresh with pc := 0xFFF#16 }.pc.toNat) ∧
    (fetchable { fresh with pc := 0xFFE#16 } ∧ decodeWord (wordAtPc { fresh with pc := 0xFFE#16 })
      = .error (.unrecognized (wordAtPc { fresh with pc := 0xFFE#16 }))) :=
  ⟨⟨rfl, by decide⟩, (by decide : (0xFFE#16).toNat ≤ 0xFFE), by decide⟩
theorem witness_OperationsRequireRunning :
    { fresh with run := .halted }.run = .halted ∧ { fresh with run := .unloaded }.run = .unloaded ∧
    (List.replicate 3583 1#8).length ≤ 3583 := ⟨rfl, rfl, by rw [List.length_replicate]⟩
theorem witness_FatalConditionsArePrecise :
    ∃ t, stepOp noKeys (withBytes 0x200 [0xF0, 0x33] { fresh with i := 0xFFE#16 }) = .next t ∧ t.run = .halted :=
  ⟨_, rfl, by decide⟩
/-- Each checked instruction at its boundary: the last state that passes, and the first that fails. -/
theorem witness_InstructionHaltsExactlyOnItsCheck :
    (busy.run = .running ∧ ∃ t, exec (.call 0x300) busy = .next t ∧ t.run = .halted ∧ checkFails (.call 0x300) busy) ∧
    ∃ t, exec (.call 0x300) { busy with stack := [] } = .next t ∧ t.run = .running ∧
      ¬ checkFails (.call 0x300) { busy with stack := [] } := by
  refine ⟨⟨rfl, _, rfl, by decide, 1, rfl, by decide⟩, _, rfl, by decide, ?_⟩
  rintro ⟨d, h, hd⟩
  cases h
  exact absurd hd (by decide)
theorem witness_check_boundaries :
    (¬ checkFails (.drw 0 0 1) { fresh with i := 0xFFF#16 } ∧ checkFails (.drw 0 0 2) { fresh with i := 0xFFF#16 } ∧
      ¬ checkFails (.drw 0 0 0) { fresh with i := 0xFFFF#16 }) ∧
    (¬ checkFails (.ldB 0) { fresh with i := 0xFFD#16 } ∧ checkFails (.ldB 0) { fresh with i := 0xFFE#16 }) ∧
    (¬ checkFails (.save 0xF) { fresh with i := 0xFF0#16 } ∧ checkFails (.save 0xF) { fresh with i := 0xFF1#16 }) ∧
    (¬ checkFails (.load 0) { fresh with i := 0xFFF#16 } ∧ checkFails (.load 0) { fresh with i := 0x1000#16 }) ∧
    checkFails .ret fresh ∧ ¬ checkFails .ret busy := by
  simp only [checkFails]
  decide

theorem witness_step_next : ∃ t, step busy = .next t ∧ t.dt = 8 := ⟨_, rfl, by decide⟩
theorem witness_StepKeepsMemoryCanonical : memCanonical busy := (by decide : Memory.wf _ _ = true)
theorem witness_StepKeepsFaultMatchesRun : faultMatchesRun busy := by simp [faultMatchesRun]; decide
theorem witness_StepKeepsIntensitiesLegal : fbLegal busy := by
  intro x y
  simp only [busy, cell_setCell, cell_blankFb]
  split_ifs <;> simp [legalIntensity]
theorem witness_StepKeepsPcBounded : pcBounded busy :=
  ⟨(by decide : (0x10FE#16).toNat ≤ 0x10FE), fun a h => by
    cases List.mem_singleton.mp h
    decide⟩
theorem witness_StepKeepsStackWithinDepth : stackBounded busy := by
  intro d h
  cases h
  decide
/-- An image that fits, an instruction and a STEP of one other than the three, and each operation kind. -/
theorem witness_CompatWrittenByLoadReadByThree :
    (∃ t, loadOp [0x60] true fresh = .next t) ∧ (¬ readsCompat (.addReg 1 2) ∧ ∃ t, exec (.addReg 1 2) fresh = .next t) ∧
    (decodeWord (wordAtPc (withBytes 0x200 [0x81, 0x24] fresh)) = .ok (.addReg 1 2) ∧
      ∃ t r, applyOp (.step noKeys) (withBytes 0x200 [0x81, 0x24] fresh) = .next (t, r)) ∧
    (∃ t r, applyOp (.step noKeys) { fresh with pc := 0xFFF#16 } = .next (t, r)) ∧
    (∃ t r, applyOp .tick fresh = .next (t, r)) ∧ (∃ t r, applyOp .fade fresh = .next (t, r)) ∧
    (∃ t r, applyOp .fbread fresh = .next (t, r)) :=
  ⟨⟨_, rfl⟩, ⟨id, _, rfl⟩, ⟨by decide, _, _, rfl⟩, ⟨_, _, rfl⟩, ⟨_, _, rfl⟩, ⟨_, _, rfl⟩, _, _, rfl⟩
theorem witness_OnlyNamedInstructionsWrite :
    (∃ t, exec (.ldI 0x300) fresh = .next t ∧ t.i ≠ fresh.i) ∧
    (∃ t, exec (.ldDtVx 1) (withRegs [(1, 7)] fresh) = .next t ∧ t.dt ≠ fresh.dt) ∧
    (∃ t, exec (.ldStVx 1) (withRegs [(1, 7)] fresh) = .next t ∧ t.st ≠ fresh.st) ∧
    (∃ t, exec (.call 0x300) fresh = .next t ∧ t.stack ≠ fresh.stack) ∧
    (∃ t, exec (.ldB 1) (withRegs [(1, 7)] fresh) = .next t ∧ t.mem ≠ fresh.mem) ∧
    (∃ t, exec .cls busy = .next t ∧ t.fb ≠ busy.fb) :=
  ⟨⟨_, rfl, by decide⟩, ⟨_, rfl, by decide⟩, ⟨_, rfl, by decide⟩, ⟨_, rfl, by decide⟩, ⟨_, rfl, by decide⟩,
    _, rfl, by decide +kernel⟩
theorem witness_OnlyDestinationsAndFlagChange :
    ∃ t, exec (.addReg 1 2) (withRegs [(1, 0xFF), (2, 1)] fresh) = .next t ∧ t.reg 1 ≠ 0xFF ∧ t.reg 0xF ≠ 0 ∧
      writesFlag (.addReg 1 2) ∧ t.run = .running := ⟨_, rfl, by decide, by decide, trivial, by decide⟩
/-- The flag, no flag, and the destination VF. -/
theorem witness_AluWriteBackOrder :
    (aluForm (.sub 0xF 1) = some (.sub, 0xF, .reg 1) ∧ fresh.reg 1 = 0 ∧
      alu (fresh.reg 0xF) 0 .sub fresh.compat = (0, some true)) ∧
    (aluForm (.addImm 0xF 1) = some (.add, 0xF, .imm 1) ∧ alu (fresh.reg 0xF) 1 .add fresh.compat = (1, some false)) ∧
    aluForm (.orReg 2 1) = some (.or, 2, .reg 1) ∧ alu (fresh.reg 2) 0 .or fresh.compat = (0, none) := by decide
theorem witness_ShiftInstructions :
    fresh.reg 1 = (if fresh.compat then fresh.reg 2 else fresh.reg 1) ∧
    busy.reg 2 = (if { busy with compat := true }.compat then busy.reg 2 else busy.reg 1) := ⟨rfl, rfl⟩
theorem witness_AluDestinations : (1#4 : RegIx) ≠ 0xF#4 := by decide
/-- The first jump target that cannot be fetched. -/
theorem witness_JumpAbsolute : 0xFFE < (0xFFF#12 : Addr).toNat := by decide
theorem witness_JumpWithOffset : ∃ t, exec (.jpV0 0xFFE) (withRegs [(0xF, 1)] fresh) = .next t ∧ t.pc.toNat = 0xFFF :=
  ⟨_, rfl, by decide⟩
/-- No depth, room for one more, and no room. -/
theorem witness_CallSubroutine :
    (∀ depth, fresh.params.stackDepth = some depth → fresh.stack.length < depth) ∧
    (∀ depth, { busy with stack := [] }.params.stackDepth = some depth → ([] : List Word).length < depth) ∧
    (busy.params.stackDepth = some 1 ∧ 1 ≤ busy.stack.length) := by
  refine ⟨fun _ h => (nomatch h), fun d h => ?_, rfl, by decide⟩
  cases (h : some 1 = some d)
  decide
theorem witness_ReturnFromSubroutine : busy.stack = [] ++ [0x1000#16] ∧ fresh.stack = [] := ⟨rfl, rfl⟩
theorem witness_CallThenReturnResumes : fresh.stackFull = false ∧ ∃ t, exec (.call 0x300) fresh = .next t ∧
    { busy with stack := [0x200#16] }.stack = t.stack := ⟨rfl, _, rfl, rfl⟩
theorem witness_KeySkips :
    true = (pressing 0x8000 15).keys.getLsbD (((withRegs [(1, 0x1F)] fresh).reg 1).toNat % 16) ∧
    false = (pressing 0x8000 15).keys.getLsbD (((withRegs [(1, 0x10)] fresh).reg 1).toNat % 16) := by decide
/-- n = 0 whatever I is, and the last byte of memory; a lit covered cell, and none. -/
theorem witness_DrawMatchesPerCellForm :
    ((0#4 : Nibble).toNat = 0 ∨ 0xFFFF + (0#4 : Nibble).toNat - 1 ≤ 0xFFF) ∧
    ((1#4 : Nibble).toNat = 0 ∨ (0xFFF#16).toNat + (1#4 : Nibble).toNat - 1 ≤ 0xFFF) ∧
    spriteCovers (sprite 0x01 [(0, 56), (1, 31)]) 0 1 1 63 31 ∧
    ¬ spriteCovers (sprite 0x01 [(0, 57), (1, 31)]) 0 1 1 63 31 ∧
    cell (withCells [(63, 31, 0xFF)] (sprite 0x01 [(0, 56), (1, 31)])).fb 63 31 = 0xFF#8 := by
  refine ⟨.inl rfl, .inr (by decide), ?_, ?_, by decide +kernel⟩ <;> simp only [spriteCovers] <;> decide +kernel
theorem witness_DrawPastMemoryHalts :
    1 ≤ (2#4 : Nibble).toNat ∧ 0xFFF < { fresh with i := 0xFFF#16 }.i.toNat + (2#4 : Nibble).toNat - 1 := by decide
theorem witness_FadeLowersFadingCells : busy.run = .running ∧ { busy with run := .halted }.run ≠ .running ∧
    0 < (cell busy.fb 63 31).toNat ∧ (cell busy.fb 63 31).toNat < 255 := by decide +kernel
theorem witness_FadeTrajectory : cell busy.fb 3 4 = 0xFF#8 := by decide +kernel
theorem witness_FbreadIsRowMajor : { busy with run := .halted }.run ≠ .unloaded := by decide
/-- The last index that FX33 can use, and the first it cannot. -/
theorem witness_DecimalDecompose : memCanonical busy ∧ { busy with i := 0xFFD#16 }.i.toNat ≤ 0xFFD ∧
    0xFFD < { busy with i := 0xFFE#16 }.i.toNat := ⟨witness_StepKeepsMemoryCanonical, by decide, by decide⟩
theorem witness_SaveRegisters : memCanonical busy ∧
    { busy with i := 0xFF0#16 }.i.toNat + (0xF#4 : RegIx).toNat ≤ 0xFFF ∧
    0xFFF < { busy with i := 0xFF1#16 }.i.toNat + (0xF#4 : RegIx).toNat ∧ (0xF#4 : RegIx).toNat ≤ (0xF#4 : RegIx).toNat :=
  ⟨witness_StepKeepsMemoryCanonical, by decide, by decide, by decide⟩
theorem witness_LoadRegisters : { busy with i := 0xFFF#16 }.i.toNat + (0#4 : RegIx).toNat ≤ 0xFFF ∧
    0xFFF < { busy with i := 0x1000#16 }.i.toNat + (0#4 : RegIx).toNat ∧ (0#4 : RegIx).toNat < (1#4 : RegIx).toNat := by
  decide
theorem witness_SaveThenLoadRestores :
    ∃ t u : State, memCanonical fresh ∧ fresh.i.toNat + (0xF#4 : RegIx).toNat ≤ 0xFFF ∧ exec (.save 0xF) fresh = .next t ∧
      u.mem = t.mem ∧ u.params = t.params ∧ u.i = fresh.i := by
  obtain ⟨t, ht⟩ : ∃ t, exec (.save 0xF) fresh = .next t := ⟨_, rfl⟩
  exact ⟨t, { t with i := fresh.i }, (by decide : Memory.wf _ _ = true), by decide, ht, rfl, rfl, rfl⟩
/-- The last index for x = 1 and for FX33, and the last address that can be fetched; the bytes among and next to the
stored ones. -/
theorem witness_StoreIsSeenByFetch :
    memCanonical busy ∧ { busy with i := 0xFFE#16 }.i.toNat + (1#4 : RegIx).toNat ≤ 0xFFF ∧
    { busy with i := 0xFFD#16 }.i.toNat ≤ 0xFFD ∧ (0xFFE#16 : Word).toNat ≤ 0xFFE ∧
    byteAfterSave (withRegs [(1, 7)] { fresh with i := 0xFFE#16 }) 1 0xFFF = 7 ∧
    byteAfterSave { busy with i := 0x201#16 } 1 0x200 = 0x60 ∧
    byteAfterDecimal (withRegs [(1, 123)] { fresh with i := 0xFFD#16 }) 1 0xFFE = 2 :=
  ⟨witness_StepKeepsMemoryCanonical, by decide, by decide, by decide, by decide, by decide, by decide⟩
theorem witness_TimerMoves : (withRegs [(4, 2)] fresh).run = .running := rfl
theorem witness_TickCountsDown : fresh.run = .running ∧ { fresh with run := .unloaded }.run ≠ .running := by decide
/-- No key, a choice that is pressed, and one that is not. -/
theorem witness_WaitForKey : fresh.inputs.keys = 0#16 ∧ (pressing 0x8001 15).keys ≠ 0#16 ∧
    (pressing 0x8001 15).keys.getLsbD (pressing 0x8001 15).keyChoice.toNat = true ∧
    (pressing 0x8001 3).keys.getLsbD (pressing 0x8001 3).keyChoice.toNat = false := by decide
/-- The longest image that fits, and the shortest that does not. -/
theorem witness_LoadSetsEveryElement : (List.replicate 3583 1#8).length ≤ 3583 := by rw [List.length_replicate]
theorem witness_OversizeLoadHalts : 3583 < (List.replicate 3584 1#8).length := by rw [List.length_replicate]; decide

end Sys2Proof.Tests
end

section
/-! The inversion of STEP, TICK, FADE and FBREAD, and the equations of LOAD and of the fetch-decode-execute cycle: what
each answers, so that no proof about an operation unfolds it again. -/

namespace Sys2Proof.Machine

/-- An operation that requires a running machine answers a next state exactly when the machine runs and it does. -/
theorem whenRunning_eq_next {α : Type} {s : State} {k : Host.Outcome α Fault Refusal} {t : α} :
    whenRunning s k = .next t ↔ s.run = .running ∧ k = .next t :=
  ⟨whenRunning_next, fun ⟨hr, hk⟩ => (whenRunning_running hr k).trans hk⟩

theorem noResult_eq_next {o : Host.Outcome State Fault Refusal} {t : State} {r : OpResult} :
    noResult o = .next (t, r) ↔ o = .next t ∧ r = .none := by
  cases o <;> simp [noResult, eq_comm]

theorem applyOp_step_eq_next {inputs : StepInputs} {s t : State} {r : OpResult} :
    applyOp (.step inputs) s = .next (t, r) ↔
      s.run = .running ∧ cycle { s with inputs := inputs } = .next t ∧ r = .none := by
  rw [applyOp, noResult_eq_next, stepOp, whenRunning_eq_next, and_assoc]

theorem applyOp_tick_eq_next {s t : State} {r : OpResult} :
    applyOp .tick s = .next (t, r) ↔ s.run = .running ∧ t = s.tick ∧ r = .sound (s.tick.st != 0#8) := by
  rw [applyOp, tickOp, whenRunning_eq_next, Host.Outcome.next.injEq, Prod.mk.injEq, eq_comm (b := t), eq_comm (b := r)]

theorem applyOp_fade_eq_next {s t : State} {r : OpResult} :
    applyOp .fade s = .next (t, r) ↔ s.run = .running ∧ t = { s with fb := fadeFb s.fb } ∧ r = .none := by
  rw [applyOp, noResult_eq_next, fadeOp, whenRunning_eq_next, and_assoc, Host.Outcome.next.injEq, eq_comm (b := t)]

theorem applyOp_fbread_eq_next {s t : State} {r : OpResult} :
    applyOp .fbread s = .next (t, r) ↔ s.run ≠ .unloaded ∧ t = s ∧ r = .cells (cellsOf s.fb) := by
  rw [applyOp, fbreadOp]
  cases s.run <;> simp [eq_comm]

/-- A LOAD that fits answers the loaded state (70_reset_and_hazards.md R240). -/
theorem loadOp_of_fits {image : List Byte} (h : image.length ≤ Config.maxImageBytes) (compat : Bool) (s : State) :
    loadOp image compat s = .next (s.loaded image compat) := by
  rw [loadOp, if_neg (Nat.not_lt.mpr h)]

/-- A PC that cannot be fetched is fatal (20_memory.md R54). -/
theorem cycle_of_not_fetchable {s : State} (h : ¬ fetchable s) :
    cycle s = .next (s.halt (.memoryOutOfRange (max s.pc.toNat 4096) .fetch)) := by
  simp only [cycle, fetch_error (Nat.lt_of_not_le h)]

/-- A word that is not recognized is fatal (60_exceptions.md R215). -/
theorem cycle_of_decode_error {s : State} {e : DecodeError} (h : fetchable s)
    (hd : decodeWord (wordAtPc s) = .error e) :
    cycle s = .next (s.halt (.unrecognizedInstruction (wordAtPc s) s.pc)) := by
  have hf : fetch s = .ok (wordAtPc s) := fetch_ok h
  simp [cycle, hf, hd, State.raise_advance]

/-- A recognized word executes with PC advanced (30_encoding.md R90). -/
theorem cycle_of_decode_ok {s : State} {i : Instr} (h : fetchable s) (hd : decodeWord (wordAtPc s) = .ok i) :
    cycle s = exec i s.advance := by
  have hf : fetch s = .ok (wordAtPc s) := fetch_ok h
  simp only [cycle, hf, hd]

end Sys2Proof.Machine
end

section
/-! COMPAT (10_state.md R27). `withCompat` replaces COMPAT; every read but COMPAT's own is blind to it by definition, and
the write operations of the state commute with it. -/

namespace Sys2Proof.Machine

/-- No instruction writes COMPAT. -/
theorem ExecShape.compat_eq {s t : State} (h : ExecShape s t) : t.compat = s.compat := by
  cases h <;> simp

/-- Neither the fetch, the decode nor the instruction of a STEP writes COMPAT. -/
theorem cycle_compat_eq {s t : State} (h : cycle s = .next t) : t.compat = s.compat := by
  rcases cycle_cases s with ⟨-, hc⟩ | ⟨-, w, -, ⟨e, -, hc⟩ | ⟨i, -, hc⟩⟩ <;> rw [hc] at h
  · cases h; rfl
  · cases h; rfl
  · exact (exec_shape h).compat_eq

/-- The state with another COMPAT. -/
def State.withCompat (s : State) (compat : Bool) : State := { s with compat := compat }

@[simp] theorem State.withCompat_stack (s : State) (compat : Bool) : (s.withCompat compat).stack = s.stack := rfl
@[simp] theorem State.withCompat_inputs (s : State) (compat : Bool) : (s.withCompat compat).inputs = s.inputs := rfl
@[simp] theorem State.withCompat_reg (s : State) (compat : Bool) (x : RegIx) :
    (s.withCompat compat).reg x = s.reg x := rfl
@[simp] theorem State.withCompat_operand (s : State) (compat : Bool) (rhs : Operand) :
    (s.withCompat compat).operand rhs = s.operand rhs := by
  cases rhs <;> rfl
@[simp] theorem State.withCompat_regsFromZero (s : State) (compat : Bool) (count : Nat) :
    (s.withCompat compat).regsFromZero count = s.regsFromZero count := rfl
@[simp] theorem State.withCompat_indexAddr (s : State) (compat : Bool) :
    (s.withCompat compat).indexAddr = s.indexAddr := rfl
@[simp] theorem State.withCompat_stackFull (s : State) (compat : Bool) :
    (s.withCompat compat).stackFull = s.stackFull := rfl
@[simp] theorem readBlock_withCompat (s : State) (compat : Bool) (base count : Nat) :
    readBlock (s.withCompat compat) base count = readBlock s base count := rfl

theorem State.skipIf_withCompat (s : State) (compat c : Bool) :
    (s.withCompat compat).skipIf c = (s.skipIf c).withCompat compat := by
  cases c <;> rfl

theorem State.setFlag?_withCompat (s : State) (compat : Bool) (flag : Option Bool) :
    (s.withCompat compat).setFlag? flag = (s.setFlag? flag).withCompat compat := by
  cases flag <;> rfl

theorem State.setRegsFrom_withCompat (s : State) (compat : Bool) (first : Nat) (bytes : List Byte) :
    (s.withCompat compat).setRegsFrom first bytes = (s.setRegsFrom first bytes).withCompat compat := by
  induction bytes generalizing s first with
  | nil => rfl
  | cons b rest ih => exact ih { s with v := s.v.setIfInBounds first b } (first + 1)

theorem State.setBytesAt_withCompat (s : State) (compat : Bool) (base : Nat) (bytes : List Byte) :
    (s.withCompat compat).setBytesAt base bytes = (s.setBytesAt base bytes).withCompat compat := by
  induction bytes generalizing s base with
  | nil => rfl
  | cons u rest ih => exact ih (s.setByteAt base u) (base + 1)

theorem writeBlock_withCompat (s : State) (compat : Bool) (base : Nat) (bytes : List Byte) :
    writeBlock (s.withCompat compat) base bytes = (writeBlock s base bytes).map (·.withCompat compat) := by
  rcases rangeCheck_cases base bytes.length .write with ⟨hfit, -⟩ | ⟨hout, hne, -⟩
  · rw [writeBlock_ok hfit, writeBlock_ok hfit, State.setBytesAt_withCompat, Except.map]
  · rw [writeBlock_error hout hne, writeBlock_error hout hne, Except.map]

/-- Only the two shifts of the ALU read COMPAT (42_alu.md R120). -/
theorem alu_compat_irrelevant {op : AluOp} (hshr : op ≠ .shr) (hshl : op ≠ .shl) (lhs rhs : Byte) (c d : Bool) :
    alu lhs rhs op c = alu lhs rhs op d := by
  cases op with
  | shr => exact absurd rfl hshr
  | shl => exact absurd rfl hshl
  | set | or | and | xor | add | sub | subRev => rfl

theorem arithExec_withCompat {op : AluOp} (hshr : op ≠ .shr) (hshl : op ≠ .shl) (x : RegIx) (rhs : Operand)
    (s : State) (compat : Bool) :
    arithExec op x rhs (s.withCompat compat) = (arithExec op x rhs s).withCompat compat := by
  have halu : alu (s.reg x) (s.operand rhs) op (s.withCompat compat).compat =
      alu (s.reg x) (s.operand rhs) op s.compat :=
    alu_compat_irrelevant hshr hshl _ _ _ _
  simp only [arithExec, State.withCompat_reg, State.withCompat_operand, halu]
  exact State.setFlag?_withCompat (s.setReg x _) compat _

/-- The end of an instruction commutes with another COMPAT when its result does. -/
theorem complete_withCompat {s t : State} {compat : Bool} {r r' : Except Fatal State} (h : complete s r = .next t)
    (hr : r' = r.map (·.withCompat compat)) : complete (s.withCompat compat) r' = .next (t.withCompat compat) := by
  subst hr
  cases r <;> cases h <;> rfl

/-- An instruction other than BNNN, 8XY6 and 8XYE does the same whatever COMPAT is (10_state.md R27). -/
theorem exec_withCompat {i : Instr} (hi : ¬ readsCompat i) {s t : State} (h : exec i s = .next t) (compat : Bool) :
    exec i (s.withCompat compat) = .next (t.withCompat compat) := by
  cases i with
  | jpV0 _ | shr _ _ | shl _ _ => exact absurd trivial hi
  | ldImm _ _ | addImm _ _ | ldReg _ _ | orReg _ _ | andReg _ _ | xorReg _ _ | addReg _ _ | sub _ _ | subn _ _ =>
    cases h
    exact congrArg _ (arithExec_withCompat (by decide) (by decide) _ _ s compat)
  | seImm _ _ | sneImm _ _ | seReg _ _ | sneReg _ _ | skp _ | sknp _ =>
    cases h
    exact congrArg _ (s.skipIf_withCompat compat _)
  | cls | jp _ | ldI _ | rnd _ _ | ldVxDt _ | ldDtVx _ | ldStVx _ | addI _ | ldF _ => cases h; rfl
  | ldVxK x =>
    cases h
    rw [exec, execLdVxK, State.withCompat_inputs]
    split <;> rfl
  | ret =>
    refine complete_withCompat h ?_
    rw [State.withCompat_stack]
    cases s.stack.getLast? <;> rfl
  | call nnn =>
    refine complete_withCompat h ?_
    rw [State.withCompat_stackFull]
    cases s.stackFull <;> rfl
  | drw x y n =>
    refine complete_withCompat h ?_
    rw [State.withCompat_indexAddr, readBlock_withCompat]
    cases readBlock s s.indexAddr n.toNat <;> rfl
  | ldB x => exact complete_withCompat h (writeBlock_withCompat s compat _ _)
  | save x =>
    refine complete_withCompat h ?_
    rw [State.withCompat_indexAddr, State.withCompat_regsFromZero, writeBlock_withCompat]
    cases writeBlock s s.indexAddr (s.regsFromZero (regCount x)) <;> rfl
  | load x =>
    refine complete_withCompat h ?_
    rw [State.withCompat_indexAddr, readBlock_withCompat]
    cases readBlock s s.indexAddr (regCount x) with
    | error f => rfl
    | ok bytes => exact congrArg (fun u => Except.ok (u.advanceIndex x)) (s.setRegsFrom_withCompat compat 0 bytes)

/-- A STEP that does not execute BNNN, 8XY6 or 8XYE does the same whatever COMPAT is: the fetch and the decode do not
read it, nor do their fatal conditions (10_state.md R27). -/
theorem cycle_withCompat {s t : State} (hi : ∀ i, fetchable s → decodeWord (wordAtPc s) = .ok i → ¬ readsCompat i)
    (h : cycle s = .next t) (compat : Bool) : cycle (s.withCompat compat) = .next (t.withCompat compat) := by
  by_cases hf : fetchable s
  · have hf' : fetchable (s.withCompat compat) := hf
    cases hd : decodeWord (wordAtPc s) with
    | error e =>
      rw [cycle_of_decode_error hf hd] at h
      cases h
      exact cycle_of_decode_error hf' hd
    | ok i =>
      rw [cycle_of_decode_ok hf hd] at h
      exact (cycle_of_decode_ok hf' hd).trans (exec_withCompat (hi i hf hd) h compat)
  · rw [cycle_of_not_fetchable hf] at h
    cases h
    exact cycle_of_not_fetchable (s := s.withCompat compat) hf

/-- No operation but LOAD writes COMPAT. -/
theorem applyOp_compat_eq {op : Operation} {s t : State} {r : OpResult} (hop : ∀ image compat, op ≠ .load image compat)
    (h : applyOp op s = .next (t, r)) : t.compat = s.compat := by
  cases op with
  | load image compat => exact absurd rfl (hop image compat)
  | step inputs =>
    obtain ⟨-, hc, -⟩ := applyOp_step_eq_next.mp h
    exact cycle_compat_eq (s := { s with inputs := inputs }) hc
  | tick => obtain ⟨-, rfl, -⟩ := applyOp_tick_eq_next.mp h; rfl
  | fade => obtain ⟨-, rfl, -⟩ := applyOp_fade_eq_next.mp h; rfl
  | fbread => obtain ⟨-, rfl, -⟩ := applyOp_fbread_eq_next.mp h; rfl

/-- TICK, FADE and FBREAD do not read COMPAT. -/
theorem applyOp_withCompat {op : Operation} (hop : op = .tick ∨ op = .fade ∨ op = .fbread) {s t : State} {r : OpResult}
    (h : applyOp op s = .next (t, r)) (compat : Bool) :
    applyOp op (s.withCompat compat) = .next (t.withCompat compat, r) := by
  rcases hop with rfl | rfl | rfl
  · obtain ⟨hr, rfl, rfl⟩ := applyOp_tick_eq_next.mp h
    exact applyOp_tick_eq_next.mpr ⟨hr, rfl, rfl⟩
  · obtain ⟨hr, rfl, rfl⟩ := applyOp_fade_eq_next.mp h
    exact applyOp_fade_eq_next.mpr ⟨hr, rfl, rfl⟩
  · obtain ⟨hr, rfl, rfl⟩ := applyOp_fbread_eq_next.mp h
    exact applyOp_fbread_eq_next.mpr ⟨hr, rfl, rfl⟩

/-- Settles O20: the writes by the inversion of the operations, the reads by commuting each with `withCompat`. -/
theorem compatWrittenByLoadReadByThree : Obligations.CompatWrittenByLoadReadByThree := by
  refine ⟨fun _ _ _ _ => applyOp_compat_eq, ?_, fun _ _ _ compat hi h => exec_withCompat hi h compat, ?_,
    fun _ _ _ _ compat hop h => applyOp_withCompat hop h compat⟩
  · intro image compat old s t hfit h
    rw [loadOp_of_fits hfit] at h
    cases h
    exact ⟨rfl, loadOp_of_fits hfit compat (s.withCompat old)⟩
  · intro inputs s t r compat hi h
    obtain ⟨hr, hc, rfl⟩ := applyOp_step_eq_next.mp h
    exact applyOp_step_eq_next.mpr ⟨hr, cycle_withCompat (s := { s with inputs := inputs }) hi hc compat, rfl⟩

end Sys2Proof.Machine
end

section
/-! PROOFS. The operand fields of a word, as unsigned numbers (30_encoding.md R71): a field of `k` bits from bit `i` on is
`w / 2 ^ i % 2 ^ k`. -/

namespace Sys2Proof

@[simp] theorem fieldX_toNat (w : Word) : (fieldX w).toNat = w.toNat / 256 % 16 := by
  rw [fieldX, BitVec.extractLsb'_toNat, Nat.shiftRight_eq_div_pow]

@[simp] theorem fieldY_toNat (w : Word) : (fieldY w).toNat = w.toNat / 16 % 16 := by
  rw [fieldY, BitVec.extractLsb'_toNat, Nat.shiftRight_eq_div_pow]

@[simp] theorem fieldN_toNat (w : Word) : (fieldN w).toNat = w.toNat % 16 := by
  rw [fieldN, BitVec.extractLsb'_toNat, Nat.shiftRight_zero]

@[simp] theorem fieldNN_toNat (w : Word) : (fieldNN w).toNat = w.toNat % 256 := by
  rw [fieldNN, BitVec.extractLsb'_toNat, Nat.shiftRight_zero]

@[simp] theorem fieldNNN_toNat (w : Word) : (fieldNNN w).toNat = w.toNat % 4096 := by
  rw [fieldNNN, BitVec.extractLsb'_toNat, Nat.shiftRight_zero]

/-- Settles O5: the decoder fills each field from the word whatever the tag, so each clause is the number of that field. -/
theorem decodeExtractsAllFields : Obligations.DecodeExtractsAllFields := fun w =>
  ⟨fieldX_toNat w, fieldY_toNat w, fieldN_toNat w, fieldNN_toNat w, fieldNNN_toNat w⟩

end Sys2Proof
end

section
/-! PROOFS. The skips: `State.skipIf` writes PC alone, and the register skips give it a comparison of two bytes
(41_control_flow.md R105 to R109). -/

namespace Sys2Proof.Machine

/-- A skip, taken or not, is one write of PC (41_control_flow.md R109). -/
theorem State.skipIf_eq_setPc (s : State) (c : Bool) :
    s.skipIf c = { s with pc := if c then s.pc + 2#16 else s.pc } := by
  cases c <;> rfl

theorem State.skipIf_beq (s : State) (a b : Byte) :
    s.skipIf (a == b) = { s with pc := if a.toNat = b.toNat then s.pc + 2#16 else s.pc } := by
  simp only [State.skipIf_eq_setPc, beq_iff_eq, BitVec.toNat_inj]

theorem State.skipIf_bne (s : State) (a b : Byte) :
    s.skipIf (a != b) = { s with pc := if a.toNat = b.toNat then s.pc else s.pc + 2#16 } := by
  simp only [State.skipIf_eq_setPc, bne_iff_ne, ne_eq, ite_not, BitVec.toNat_inj]

/-- Settles O36: each register skip is `skipIf` of an equality or an inequality of its two operands. -/
theorem registerSkips : Obligations.RegisterSkips := fun x y nn s =>
  ⟨congrArg Host.Outcome.next (s.skipIf_beq (s.reg x) nn),
   congrArg Host.Outcome.next (s.skipIf_bne (s.reg x) nn),
   congrArg Host.Outcome.next (s.skipIf_beq (s.reg x) (s.reg y)),
   congrArg Host.Outcome.next (s.skipIf_bne (s.reg x) (s.reg y))⟩

end Sys2Proof.Machine
end

section
/-! PROOFS. The ALU's table on numbers (42_alu.md R120): one row per operation. -/

namespace Sys2Proof.Machine

theorem alu_or (lhs rhs : Byte) (compat : Bool) :
    alu lhs rhs .or compat = (BitVec.ofNat 8 (lhs.toNat ||| rhs.toNat), none) := by
  rw [← BitVec.toNat_or, BitVec.ofNat_toNat, BitVec.setWidth_eq, alu]

theorem alu_and (lhs rhs : Byte) (compat : Bool) :
    alu lhs rhs .and compat = (BitVec.ofNat 8 (lhs.toNat &&& rhs.toNat), none) := by
  rw [← BitVec.toNat_and, BitVec.ofNat_toNat, BitVec.setWidth_eq, alu]

theorem alu_xor (lhs rhs : Byte) (compat : Bool) :
    alu lhs rhs .xor compat = (BitVec.ofNat 8 (lhs.toNat ^^^ rhs.toNat), none) := by
  rw [← BitVec.toNat_xor, BitVec.ofNat_toNat, BitVec.setWidth_eq, alu]

theorem alu_add (lhs rhs : Byte) (compat : Bool) :
    alu lhs rhs .add compat =
      (BitVec.ofNat 8 ((lhs.toNat + rhs.toNat) % 256), some (decide (255 < lhs.toNat + rhs.toNat))) := by
  have hsum : BitVec.ofNat 8 (lhs.toNat + rhs.toNat) = BitVec.ofNat 8 ((lhs.toNat + rhs.toNat) % 256) :=
    BitVec.eq_of_toNat_eq (by simp)
  rw [← hsum, alu]

/-- The two subtractions are one, with the operands exchanged. -/
theorem alu_subRev_eq_sub (lhs rhs : Byte) (compat : Bool) : alu lhs rhs .subRev compat = alu rhs lhs .sub compat := rfl

theorem alu_sub (lhs rhs : Byte) (compat : Bool) :
    alu lhs rhs .sub compat =
      (BitVec.ofInt 8 (((lhs.toNat : Int) - rhs.toNat) % 256), some (decide (rhs.toNat ≤ lhs.toNat))) := by
  have hdiff : lhs - rhs = BitVec.ofInt 8 (((lhs.toNat : Int) - rhs.toNat) % 256) := by
    apply BitVec.eq_of_toNat_eq
    rw [BitVec.toNat_sub, BitVec.toNat_ofInt]
    omega
  rw [← hdiff]
  rfl

theorem alu_shl (lhs rhs : Byte) (compat : Bool) :
    alu lhs rhs .shl compat =
      (BitVec.ofNat 8 ((if compat then rhs else lhs).toNat * 2 % 256),
        some (decide (128 ≤ (if compat then rhs else lhs).toNat))) := by
  rw [alu]
  generalize (if compat then rhs else lhs) = o
  have hres : o <<< 1 = BitVec.ofNat 8 (o.toNat * 2 % 256) :=
    BitVec.eq_of_toNat_eq (by simp [Nat.shiftLeft_eq])
  have hbit : o.getLsbD 7 = decide (128 ≤ o.toNat) := by
    rw [← o.msb_eq_getLsbD_last, BitVec.msb_eq_decide]
  rw [hres, hbit]

theorem alu_shr (lhs rhs : Byte) (compat : Bool) :
    alu lhs rhs .shr compat =
      (BitVec.ofNat 8 ((if compat then rhs else lhs).toNat / 2),
        some (decide ((if compat then rhs else lhs).toNat % 2 = 1))) := by
  rw [alu]
  generalize (if compat then rhs else lhs) = o
  have hres : o >>> 1 = BitVec.ofNat 8 (o.toNat / 2) := (BitVec.toNat_eq_nat.mp (o.toNat_ushiftRight 1)).2
  rw [hres, BitVec.getLsbD, Nat.testBit_zero]

/-- Settles O23: the nine rows together. -/
theorem aluComputesTheSpecTable : Obligations.AluComputesTheSpecTable := fun lhs rhs compat =>
  ⟨rfl, alu_or lhs rhs compat, alu_and lhs rhs compat, alu_xor lhs rhs compat, alu_add lhs rhs compat,
    alu_sub lhs rhs compat, (alu_subRev_eq_sub lhs rhs compat).trans (alu_sub rhs lhs compat), alu_shl lhs rhs compat,
    alu_shr lhs rhs compat⟩

end Sys2Proof.Machine
end

section
/-! PROOFS. The ALU instructions: each is `arithExec` with its operation, so the frame and the write-back (42_alu.md R121)
are stated once, for an operation with a flag and for one without. -/

namespace Sys2Proof.Machine

/-- An operation without a flag writes its result to V[x] and nothing else. -/
theorem arithExec_of_no_flag {op : AluOp} {x : RegIx} {o : Operand} {s : State} {res : Byte}
    (h : alu (s.reg x) (s.operand o) op s.compat = (res, none)) :
    (arithExec op x o s).reg x = res ∧ sameRegsExcept [x] s (arithExec op x o s) ∧
      onlyRegs s (arithExec op x o s) := by
  have hreg (r : RegIx) : (arithExec op x o s).reg r = if r = x then res else s.reg r := by
    rw [arithExec_reg, h]
  refine ⟨(hreg x).trans (if_pos rfl), fun r hr => ?_, arithExec_eq op x o s⟩
  exact (hreg r).trans (if_neg (List.ne_of_not_mem_cons hr))

/-- An operation with a flag writes its result to V[x], then the flag to VF, and nothing else. -/
theorem arithExec_of_flag {op : AluOp} {x : RegIx} {o : Operand} {s : State} {res : Byte} {p : Prop} [Decidable p]
    (h : alu (s.reg x) (s.operand o) op s.compat = (res, some (decide p))) :
    sameRegsExcept [x, 0xF#4] s (arithExec op x o s) ∧ onlyRegs s (arithExec op x o s) ∧
      (x ≠ 0xF#4 → (arithExec op x o s).reg x = res) ∧
      ((arithExec op x o s).reg 0xF#4).toNat = if p then 1 else 0 := by
  have hreg (r : RegIx) : (arithExec op x o s).reg r =
      if r = 0xF#4 then flagByte (decide p) else if r = x then res else s.reg r := by
    rw [arithExec_reg, h]
  refine ⟨fun r hr => ?_, arithExec_eq op x o s, fun hx => ?_, ?_⟩
  · obtain ⟨hrx, hrf⟩ : r ≠ x ∧ r ≠ 0xF#4 := by simpa using hr
    rw [hreg, if_neg hrf, if_neg hrx]
  · rw [hreg, if_neg hx, if_pos rfl]
  · rw [hreg, if_pos rfl]
    by_cases hp : p <;> simp [hp]

/-- An operation with a flag whose result the table gives as a number below 256. -/
theorem arithExec_of_flag_toNat {op : AluOp} {x : RegIx} {o : Operand} {s : State} {n : Nat} {p : Prop} [Decidable p]
    (hn : n < 256) (h : alu (s.reg x) (s.operand o) op s.compat = (BitVec.ofNat 8 n, some (decide p))) :
    sameRegsExcept [x, 0xF#4] s (arithExec op x o s) ∧ onlyRegs s (arithExec op x o s) ∧
      (x ≠ 0xF#4 → ((arithExec op x o s).reg x).toNat = n) ∧
      ((arithExec op x o s).reg 0xF#4).toNat = if p then 1 else 0 := by
  obtain ⟨hframe, honly, hres, hflag⟩ := arithExec_of_flag h
  refine ⟨hframe, honly, fun hx => ?_, hflag⟩
  rw [hres hx, BitVec.toNat_ofNat, Nat.mod_eq_of_lt hn]

/-- Settles O25: `set` has no flag and answers its second operand. -/
theorem loadImmediateAndMove : Obligations.LoadImmediateAndMove := fun _ y nn _ =>
  ⟨⟨_, rfl, arithExec_of_no_flag (o := .imm nn) rfl⟩, ⟨_, rfl, arithExec_of_no_flag (o := .reg y) rfl⟩⟩

/-- An instruction without a flag whose result is a bitwise operation of V[x] and V[y]. -/
theorem arithExec_bitwise {op : AluOp} {x y : RegIx} {s : State} {res : Byte} {f : Bool → Bool → Bool}
    (h : alu (s.reg x) (s.reg y) op s.compat = (res, none))
    (hbit : ∀ k, res.getLsbD k = f ((s.reg x).getLsbD k) ((s.reg y).getLsbD k)) :
    sameRegsExcept [x] s (arithExec op x (.reg y) s) ∧ onlyRegs s (arithExec op x (.reg y) s) ∧
      ∀ k < 8, ((arithExec op x (.reg y) s).reg x).getLsbD k = f ((s.reg x).getLsbD k) ((s.reg y).getLsbD k) := by
  obtain ⟨hres, hframe, honly⟩ := arithExec_of_no_flag (o := .reg y) h
  exact ⟨hframe, honly, fun k _ => hres ▸ hbit k⟩

/-- Settles O26: the bits of the three bitwise operations are the library's. -/
theorem bitwiseInstructions : Obligations.BitwiseInstructions := fun _ _ _ =>
  ⟨⟨_, rfl, arithExec_bitwise rfl fun _ => BitVec.getLsbD_or⟩,
   ⟨_, rfl, arithExec_bitwise rfl fun _ => BitVec.getLsbD_and⟩,
   ⟨_, rfl, arithExec_bitwise rfl fun _ => BitVec.getLsbD_xor⟩⟩

/-- Settles O27: the `add` row of the table, written back with its flag. -/
theorem addRegister : Obligations.AddRegister := fun x y s =>
  ⟨_, rfl, arithExec_of_flag_toNat (o := .reg y) (Nat.mod_lt _ (by decide)) (alu_add (s.reg x) (s.reg y) s.compat)⟩

/-- An instruction whose operation subtracts `b` from `a`, whichever of V[x] and V[y] each is. -/
theorem arithExec_difference {op : AluOp} {x y : RegIx} {s : State} {a b : Byte}
    (h : alu (s.reg x) (s.reg y) op s.compat = alu a b .sub s.compat) :
    sameRegsExcept [x, 0xF#4] s (arithExec op x (.reg y) s) ∧ onlyRegs s (arithExec op x (.reg y) s) ∧
      (x ≠ 0xF#4 → (((arithExec op x (.reg y) s).reg x).toNat : Int) = ((a.toNat : Int) - b.toNat) % 256) ∧
      ((arithExec op x (.reg y) s).reg 0xF#4).toNat = if a.toNat ≥ b.toNat then 1 else 0 := by
  obtain ⟨hframe, honly, hres, hflag⟩ := arithExec_of_flag (o := .reg y) (h.trans (alu_sub a b s.compat))
  refine ⟨hframe, honly, fun hx => ?_, hflag⟩
  rw [hres hx, BitVec.toNat_ofInt]
  omega

/-- Settles O29: SUBN is SUB with the operands exchanged. -/
theorem subtractInstructions : Obligations.SubtractInstructions := fun x y s =>
  ⟨⟨_, rfl, arithExec_difference rfl⟩,
   ⟨_, rfl, arithExec_difference (alu_subRev_eq_sub (s.reg x) (s.reg y) s.compat)⟩⟩

/-- Settles O30: the two shift rows of the table; the flag's condition is that the bit shifted out, `o % 2` or `o / 128`,
is 1. -/
theorem shiftInstructions : Obligations.ShiftInstructions := by
  intro x y s o ho
  have hlt : o.toNat < 256 := o.isLt
  have hshr := alu_shr (s.reg x) (s.reg y) s.compat
  have hshl := alu_shl (s.reg x) (s.reg y) s.compat
  rw [← ho] at hshr hshl
  constructor
  · obtain ⟨hframe, honly, hres, hflag⟩ := arithExec_of_flag_toNat (o := .reg y) (by omega) hshr
    exact ⟨_, rfl, hframe, honly, hres, hflag.trans (by split <;> omega)⟩
  · obtain ⟨hframe, honly, hres, hflag⟩ := arithExec_of_flag_toNat (o := .reg y) (by omega) hshl
    exact ⟨_, rfl, hframe, honly, hres, hflag.trans (by split <;> omega)⟩

end Sys2Proof.Machine
end

section
/-! PROOFS. CLS and FADE, cell by cell (43_display.md R151, R157). -/

namespace Sys2Proof.Machine

/-- Settles O38: CLS writes the blank framebuffer, and FB alone. -/
theorem clearDisplay : Obligations.ClearDisplay := fun _ => ⟨_, rfl, cell_blankFb, rfl⟩

/-- The fade of a cell as a number; the subtraction is truncated, so it is floored at 0. -/
theorem fadeCell_toNat (c : Byte) :
    (fadeCell c).toNat = if 0 < c.toNat ∧ c.toNat < 255 then c.toNat - 8 else c.toNat := by
  have hlt : c.toNat < 256 := c.isLt
  by_cases hfix : c = 0#8 ∨ c = Config.lit
  · have hedge : ¬ (0 < c.toNat ∧ c.toNat < 255) := by rcases hfix with rfl | rfl <;> decide
    rw [fadeCell, if_pos hfix, if_neg hedge]
  · obtain ⟨hzero, hlit⟩ := not_or.mp hfix
    have hpos : c.toNat ≠ 0 := fun h => hzero (BitVec.eq_of_toNat_eq h)
    have hdim : c.toNat ≠ 255 := fun h => hlit (BitVec.eq_of_toNat_eq h)
    rw [fadeCell, if_neg hfix, if_pos (by omega), BitVec.toNat_ofNat, Nat.mod_eq_of_lt (by omega)]
    rfl

/-- FADE answers a next state on a running machine alone, and it writes FB alone. -/
theorem fadeOp_eq_next {s t : State} :
    fadeOp s = .next t ↔ s.run = .running ∧ t = { s with fb := fadeFb s.fb } := by
  rw [fadeOp, whenRunning_eq_next, Host.Outcome.next.injEq, eq_comm (b := t)]

/-- Settles O41: the number of each faded cell, where truncated subtraction is the integers' floored at 0. -/
theorem fadeLowersFadingCells : Obligations.FadeLowersFadingCells := by
  refine fun s => ⟨fun hr => ⟨_, fadeOp_eq_next.mpr ⟨hr, rfl⟩, rfl, fun x y => ?_⟩,
    fun hr t ht => hr (fadeOp_eq_next.mp ht).1⟩
  rw [cell_fadeFb, fadeCell_toNat]
  split <;> omega

end Sys2Proof.Machine
end

section
/-! PROOFS. The index register set and added to (44_index_memory.md R170, R171): a zero-extended operand keeps its
number, so I is set to it exactly, and only the 16-bit sum wraps. -/

namespace Sys2Proof.Machine

@[simp] theorem zextAddr_toNat (nnn : Addr) : (zextAddr nnn).toNat = nnn.toNat :=
  BitVec.toNat_setWidth_of_le (by decide)

@[simp] theorem zextByte_toNat (b : Byte) : (zextByte b).toNat = b.toNat :=
  BitVec.toNat_setWidth_of_le (by decide)

/-- The sum ADD I, Vx writes to I, on numbers. -/
theorem add_zextByte_toNat (i : Word) (b : Byte) : (i + zextByte b).toNat = (i.toNat + b.toNat) % 65536 := by
  rw [BitVec.toNat_add, zextByte_toNat]

/-- Settles O44: both instructions answer the state with I alone written, the one by the operand's number, the other by
the wrapped sum. -/
theorem indexSetAndAdd : Obligations.IndexSetAndAdd := fun nnn x s =>
  ⟨⟨_, rfl, zextAddr_toNat nnn, rfl⟩, ⟨_, rfl, add_zextByte_toNat s.i (s.reg x), rfl⟩⟩

end Sys2Proof.Machine
end

section
/-! PROOFS. The key skips: the key tested is Vx modulo 16, and SKNP's skip is SKP's negated (45_timers_keys_random.md R193
to R195). -/

namespace Sys2Proof.Machine

/-- The low nibble of Vx as a number: the high nibble is dropped. -/
@[simp] theorem State.keyOf_toNat (s : State) (x : RegIx) : (s.keyOf x).toNat = (s.reg x).toNat % 16 :=
  BitVec.toNat_setWidth 4 (s.reg x)

theorem keyPressed_keyOf (keys : BitVec 16) (s : State) (x : RegIx) :
    keyPressed keys (s.keyOf x) = keys.getLsbD ((s.reg x).toNat % 16) := by
  rw [keyPressed, State.keyOf_toNat]

theorem State.skipIf_not (s : State) (c : Bool) :
    s.skipIf (!c) = { s with pc := if c then s.pc else s.pc + 2#16 } := by
  cases c <;> rfl

/-- Settles O37: each key skip is `skipIf` of the tested key's bit, or of its negation. -/
theorem keySkips : Obligations.KeySkips := by
  rintro x s _ rfl
  rw [← keyPressed_keyOf]
  exact ⟨congrArg Host.Outcome.next (s.skipIf_eq_setPc _), congrArg Host.Outcome.next (s.skipIf_not _)⟩

end Sys2Proof.Machine
end

section
/-! PROOFS. TICK (60_exceptions.md R225): each timer counts down by one as a number, floored at 0, and the answer is
whether the sound timer counted down to something other than 0. -/

namespace Sys2Proof.Machine

/-- The byte subtraction does not wrap, as a timer that is 0 stays. -/
theorem countDown_toNat (c : Byte) : (countDown c).toNat = if c.toNat > 0 then c.toNat - 1 else 0 := by
  by_cases hzero : c = 0#8
  · subst hzero
    rfl
  · have hpos : c.toNat > 0 := Nat.pos_of_ne_zero fun h => hzero (BitVec.eq_of_toNat_eq h)
    rw [countDown, if_neg hzero, if_pos hpos]
    exact BitVec.toNat_sub_of_le (BitVec.le_def.mpr hpos)

/-- TICK answers a next state on a running machine alone: the ticked state, with the sound of its ST. -/
theorem tickOp_eq_next {s t : State} {r : OpResult} :
    tickOp s = .next (t, r) ↔ s.run = .running ∧ t = s.tick ∧ r = .sound (s.tick.st != 0#8) :=
  applyOp_tick_eq_next

/-- The sound a TICK answers, on the number of the sound timer. -/
theorem bne_zero_iff_toNat_ne_zero (c : Byte) : (c != 0#8) = true ↔ c.toNat ≠ 0 := by
  rw [bne_iff_ne, ne_eq, ne_eq, ← BitVec.toNat_inj, BitVec.toNat_zero]

/-- Settles O52: the next state is `State.tick`, whose two timers are counted down and whose other elements stay. -/
theorem tickCountsDown : Obligations.TickCountsDown := fun s =>
  ⟨fun hr => ⟨s.tick, _, tickOp_eq_next.mpr ⟨hr, rfl, rfl⟩, countDown_toNat s.dt, countDown_toNat s.st,
    bne_zero_iff_toNat_ne_zero s.tick.st, rfl⟩,
  fun hr _ ht => hr (tickOp_eq_next.mp ht).1⟩

end Sys2Proof.Machine
end

section
/-! PROOFS. The opcode map and the encoder (30_encoding.md R70, R71, R74, R75). A word is its fields put together, in
each of the formats; a row of the map fixes the fields its mask covers, so the decoder, which dispatches on them, answers
the row's tag; and a word the decoder gives an instruction for is that instruction's word. -/

namespace Sys2Proof
open Laws.EncodeMatchesRow (row row_mem of_mask mask_nnn mask_xnn mask_xyn mask_xy mask_x)

/-! ### The formats: a word from its fields -/

@[simp] theorem classOf_toNat (w : Word) : (classOf w).toNat = w.toNat / 4096 := by
  have hlt := w.isLt
  rw [classOf, BitVec.extractLsb'_toNat, Nat.shiftRight_eq_div_pow]
  omega

theorem classOf_append_nnn (w : Word) : classOf w ++ fieldNNN w = w :=
  (BitVec.extractLsb'_append_extractLsb'_eq_extractLsb' (by rfl)).trans BitVec.extractLsb'_eq_self

theorem classOf_append_xnn (w : Word) : classOf w ++ fieldX w ++ fieldNN w = w := by
  have hhigh : classOf w ++ fieldX w = w.extractLsb' 8 8 :=
    BitVec.extractLsb'_append_extractLsb'_eq_extractLsb' (by rfl)
  rw [hhigh]
  exact (BitVec.extractLsb'_append_extractLsb'_eq_extractLsb' (by rfl)).trans BitVec.extractLsb'_eq_self

theorem classOf_append_xyn (w : Word) : classOf w ++ fieldX w ++ fieldY w ++ fieldN w = w := by
  have hhigh : classOf w ++ fieldX w = w.extractLsb' 8 8 :=
    BitVec.extractLsb'_append_extractLsb'_eq_extractLsb' (by rfl)
  have hupper : classOf w ++ fieldX w ++ fieldY w = w.extractLsb' 4 12 :=
    hhigh ▸ BitVec.extractLsb'_append_extractLsb'_eq_extractLsb' (by rfl)
  rw [hupper]
  exact (BitVec.extractLsb'_append_extractLsb'_eq_extractLsb' (by rfl)).trans BitVec.extractLsb'_eq_self

section
variable {w : Word} {c : BitVec 4} (hc : classOf w = c)
include hc

theorem eq_format_nnn : c ++ fieldNNN w = w := hc ▸ classOf_append_nnn w

theorem eq_format_xnn : c ++ fieldX w ++ fieldNN w = w := hc ▸ classOf_append_xnn w

theorem eq_format_x {b : Byte} (hb : fieldNN w = b) : c ++ fieldX w ++ b = w := hb ▸ eq_format_xnn hc

theorem eq_format_xyn : c ++ fieldX w ++ fieldY w ++ fieldN w = w := hc ▸ classOf_append_xyn w

theorem eq_format_xy {n : Nibble} (hn : fieldN w = n) : c ++ fieldX w ++ fieldY w ++ n = w := hn ▸ eq_format_xyn hc

end

@[simp] theorem fieldNNN_nnn (c : BitVec 4) (nnn : Addr) : fieldNNN (c ++ nnn) = nnn :=
  BitVec.extractLsb'_append_eq_right

@[simp] theorem fieldX_xnn (c : BitVec 4) (x : RegIx) (nn : Byte) : fieldX (c ++ x ++ nn) = x :=
  (BitVec.extractLsb'_append_eq_of_le (xlo := nn) (by decide)).trans BitVec.extractLsb'_append_eq_right

@[simp] theorem fieldNN_xnn (c : BitVec 4) (x : RegIx) (nn : Byte) : fieldNN (c ++ x ++ nn) = nn :=
  BitVec.extractLsb'_append_eq_right

@[simp] theorem fieldX_xyn (c : BitVec 4) (x y : RegIx) (n : Nibble) : fieldX (c ++ x ++ y ++ n) = x :=
  ((BitVec.extractLsb'_append_eq_of_le (xlo := n) (by decide)).trans
    (BitVec.extractLsb'_append_eq_of_le (xlo := y) (by decide))).trans BitVec.extractLsb'_append_eq_right

@[simp] theorem fieldY_xyn (c : BitVec 4) (x y : RegIx) (n : Nibble) : fieldY (c ++ x ++ y ++ n) = y :=
  (BitVec.extractLsb'_append_eq_of_le (xlo := n) (by decide)).trans BitVec.extractLsb'_append_eq_right

@[simp] theorem fieldN_xyn (c : BitVec 4) (x y : RegIx) (n : Nibble) : fieldN (c ++ x ++ y ++ n) = n :=
  BitVec.extractLsb'_append_eq_right

/-! ### The rows of the opcode map -/

/-- A row fixes every field of the word that its mask covers. -/
theorem OpcodeRow.field_eq_of_selects {r : OpcodeRow} {w : Word} (h : r.selects w = true) {start len : Nat}
    (hm : r.mask.extractLsb' start len = BitVec.allOnes len) :
    w.extractLsb' start len = r.value.extractLsb' start len := by
  have hw : w &&& r.mask = r.value := beq_iff_eq.mp h
  rw [← hw, BitVec.extractLsb'_and, hm, BitVec.and_allOnes]

theorem tagOf_value_of_mem : ∀ r ∈ opcodeRows, tagOf r.value = r.tag := by decide

theorem classOf_mask_of_mem : ∀ r ∈ opcodeRows, classOf r.mask = 0xF#4 := by decide

/-- The rows of class 0 are the two full-word literals. -/
theorem mask_of_classOf_value_eq_zero :
    ∀ r ∈ opcodeRows, classOf r.value = 0x0#4 → r.mask = BitVec.allOnes 16 := by decide

theorem opcodeRows_tags_nodup : (opcodeRows.map OpcodeRow.tag).Nodup := by decide

theorem ne_literals_of_classOf_ne_zero {w : Word} (h : classOf w ≠ 0x0#4) : w ≠ 0x00E0#16 ∧ w ≠ 0x00EE#16 :=
  ⟨fun e => h (e ▸ rfl), fun e => h (e ▸ rfl)⟩

/-- The decoder answers the tag of a row the word selects: outside class 0 it dispatches on the class nibble, and on the
bottom nibble or byte where the row's mask covers that (30_encoding.md R75). -/
theorem tagOf_of_selects {w : Word} {r : OpcodeRow} (hr : r ∈ opcodeRows) (h : r.selects w = true) :
    tagOf w = r.tag := by
  have hclass : classOf w = classOf r.value := OpcodeRow.field_eq_of_selects h (classOf_mask_of_mem r hr)
  have hnibble : fieldN r.mask = 0xF#4 → fieldN w = fieldN r.value := OpcodeRow.field_eq_of_selects h
  have hbyte : fieldNN r.mask = 0xFF#8 → fieldNN w = fieldNN r.value := OpcodeRow.field_eq_of_selects h
  by_cases hliteral : classOf r.value = 0x0#4
  · have hw : w &&& r.mask = r.value := beq_iff_eq.mp h
    rw [mask_of_classOf_value_eq_zero r hr hliteral, BitVec.and_allOnes] at hw
    rw [hw, tagOf_value_of_mem r hr]
  · obtain ⟨hcls, hret⟩ := ne_literals_of_classOf_ne_zero (hclass ▸ hliteral)
    rw [tagOf, if_neg hcls, if_neg hret, hclass]
    clear h hcls hret
    simp only [opcodeRows, List.mem_append] at hr
    rcases hr with ((hlow | halu) | hmid) | hhigh
    · fin_cases hlow
      exacts [absurd rfl hliteral, absurd rfl hliteral, rfl, rfl, rfl, rfl, if_pos (hnibble rfl), rfl, rfl]
    · fin_cases halu <;> rw [hnibble rfl] <;> rfl
    · have hkey {a b : Byte} (hab : a = b) := congrArg (fun nn => (keyTagOf nn).getD (.unrecognized w)) hab
      fin_cases hmid
      exacts [if_pos (hnibble rfl), rfl, rfl, rfl, rfl, hkey (hbyte rfl), hkey (hbyte rfl)]
    · fin_cases hhigh <;> rw [hbyte rfl] <;> rfl

theorem row_selects_encode (i : Instr) : (row i).selects (encode i) = true := by
  refine (of_mask ?_).2
  cases i with
  | cls | ret => rfl
  | jp nnn | call nnn | ldI nnn | jpV0 nnn => exact mask_nnn _ nnn
  | seImm x nn | sneImm x nn | ldImm x nn | addImm x nn | rnd x nn => exact mask_xnn _ x nn
  | drw x y n => exact mask_xyn _ x y n
  | seReg x y | ldReg x y | orReg x y | andReg x y | xorReg x y | addReg x y | sub x y | shr x y | subn x y | shl x y
  | sneReg x y => exact mask_xy _ x y _
  | skp x | sknp x | ldVxDt x | ldVxK x | ldDtVx x | ldStVx x | addI x | ldF x | ldB x | save x | load x =>
    exact mask_x _ x _

theorem tagOf_encode (i : Instr) : tagOf (encode i) = (row i).tag := tagOf_of_selects (row_mem i) (row_selects_encode i)

/-! ### The decoder -/

theorem decodeWord_of_instr {w : Word} {i : Instr} (h : (decode w).instr = some i) : decodeWord w = .ok i := by
  rw [decodeWord, h]

theorem decodeWord_of_unrecognized {w : Word} (h : tagOf w = .unrecognized w) :
    decodeWord w = .error (.unrecognized w) := by
  have hnone : (decode w).instr = none := by simp only [decode, Descriptor.instr, h]
  rw [decodeWord, hnone]

/-- Settles O1: the tag is that of the instruction's row, and the fields of each format are the operands. -/
theorem decodeOfEncodeIsIdentity : Obligations.DecodeOfEncodeIsIdentity := by
  intro i
  apply decodeWord_of_instr
  rw [decode, tagOf_encode]
  cases i with
  | cls | ret => rfl
  | jp nnn | call nnn | ldI nnn | jpV0 nnn => simp only [Descriptor.instr, row, encode, fieldNNN_nnn]
  | seImm x nn | sneImm x nn | ldImm x nn | addImm x nn | rnd x nn =>
    simp only [Descriptor.instr, row, encode, fieldX_xnn, fieldNN_xnn]
  | drw x y n => simp only [Descriptor.instr, row, encode, fieldX_xyn, fieldY_xyn, fieldN_xyn]
  | seReg x y | ldReg x y | orReg x y | andReg x y | xorReg x y | addReg x y | sub x y | shr x y | subn x y | shl x y
  | sneReg x y => simp only [Descriptor.instr, row, encode, fieldX_xyn, fieldY_xyn]
  | skp x | sknp x | ldVxDt x | ldVxK x | ldDtVx x | ldStVx x | addI x | ldF x | ldB x | save x | load x =>
    simp only [Descriptor.instr, row, encode, fieldX_xnn]

/-- The inversion of the decoder: a word is the word of the instruction it stands for, or it has no tag but its own. -/
theorem instr_cases (w : Word) : (∃ i, (decode w).instr = some i ∧ encode i = w) ∨ tagOf w = .unrecognized w := by
  unfold decode
  fun_cases tagOf w with
  | case1 h | case2 _ h => exact .inl ⟨_, rfl, h.symm⟩
  | case3 _ _ hc | case4 _ _ hc | case14 _ _ hc | case15 _ _ hc => exact .inl ⟨_, rfl, eq_format_nnn hc⟩
  | case5 _ _ hc | case6 _ _ hc | case9 _ _ hc | case10 _ _ hc | case16 _ _ hc =>
    exact .inl ⟨_, rfl, eq_format_xnn hc⟩
  | case7 _ _ hc hn | case12 _ _ hc hn => exact .inl ⟨_, rfl, eq_format_xy hc hn⟩
  | case17 _ _ hc => exact .inl ⟨_, rfl, eq_format_xyn hc⟩
  | case11 _ _ hc =>
    generalize hn : fieldN w = n
    fun_cases aluOpOf n
    case case10 => exact .inr rfl
    all_goals exact .inl ⟨_, rfl, eq_format_xy hc hn⟩
  | case18 _ _ hc =>
    generalize hb : fieldNN w = b
    fun_cases keyTagOf b
    case case3 => exact .inr rfl
    all_goals exact .inl ⟨_, rfl, eq_format_x hc hb⟩
  | case19 _ _ hc =>
    generalize hb : fieldNN w = b
    fun_cases miscTagOf b
    case case10 => exact .inr rfl
    all_goals exact .inl ⟨_, rfl, eq_format_x hc hb⟩
  | case8 | case13 | case20 => exact .inr rfl

theorem decodeWord_cases (w : Word) :
    (∃ i, decodeWord w = .ok i ∧ encode i = w) ∨
      (tagOf w = .unrecognized w ∧ decodeWord w = .error (.unrecognized w)) :=
  (instr_cases w).imp (fun ⟨i, hi, he⟩ => ⟨i, decodeWord_of_instr hi, he⟩) fun h => ⟨h, decodeWord_of_unrecognized h⟩

theorem decodeWord_eq_error_iff {w : Word} : decodeWord w = .error (.unrecognized w) ↔ tagOf w = .unrecognized w := by
  refine ⟨fun h => ?_, decodeWord_of_unrecognized⟩
  rcases decodeWord_cases w with ⟨i, hi, -⟩ | ⟨ht, -⟩
  · cases hi.symm.trans h
  · exact ht

/-- Settles O2, by the inversion of the decoder. -/
theorem encodeOfDecodeIsIdentity : Obligations.EncodeOfDecodeIsIdentity := by
  intro w i h
  rcases decodeWord_cases w with ⟨j, hj, he⟩ | ⟨-, herr⟩
  · cases hj.symm.trans h
    exact he
  · cases herr.symm.trans h

/-- Settles O3: a word with an instruction selects that instruction's row, so one that selects none is unrecognized; and
two rows that select one word have one tag, which no two rows share. -/
theorem decoderAgreesWithOpcodeMap : Obligations.DecoderAgreesWithOpcodeMap := by
  refine ⟨rfl, fun w => ⟨fun r hr => tagOf_of_selects hr, fun hnone => ?_, fun r hr q hq hrw hqw => ?_⟩⟩
  · rcases decodeWord_cases w with ⟨i, -, rfl⟩ | ⟨ht, -⟩
    · exact absurd (row_selects_encode i) (by rw [hnone _ (row_mem i)]; decide)
    · exact ht
  · exact List.inj_on_of_nodup_map opcodeRows_tags_nodup hr hq
      ((tagOf_of_selects hr hrw).symm.trans (tagOf_of_selects hq hqw))

/-! ### The unrecognized words -/

theorem aluOpOf_eq_none {n : Nibble} : aluOpOf n = none ↔ n.toNat ∈ [0x8, 0x9, 0xA, 0xB, 0xC, 0xD, 0xF] := by
  revert n
  decide

theorem keyTagOf_eq_none {b : Byte} : keyTagOf b = none ↔ b.toNat ∉ [0x9E, 0xA1] := by
  revert b
  decide

theorem miscTagOf_eq_none {b : Byte} :
    miscTagOf b = none ↔ b.toNat ∉ [0x07, 0x0A, 0x15, 0x18, 0x1E, 0x29, 0x33, 0x55, 0x65] := by
  revert b
  decide

theorem aluTag_eq_unrecognized {n : Nibble} {w : Word} :
    ((aluOpOf n).map (Tag.arith · .reg)).getD (.unrecognized w) = .unrecognized w ↔ aluOpOf n = none := by
  cases aluOpOf n <;> simp

theorem keyTag_eq_unrecognized {b : Byte} {w : Word} :
    (keyTagOf b).getD (.unrecognized w) = .unrecognized w ↔ keyTagOf b = none := by
  fun_cases keyTagOf b <;> simp

theorem miscTag_eq_unrecognized {b : Byte} {w : Word} :
    (miscTagOf b).getD (.unrecognized w) = .unrecognized w ↔ miscTagOf b = none := by
  fun_cases miscTagOf b <;> simp

/-- Settles O4, by the decoder's dispatch: in each class the words the sub-decoder rejects are the listed ones. -/
theorem unrecognizedWordsAreTheListed : Obligations.UnrecognizedWordsAreTheListed := by
  intro w
  rw [decodeWord_eq_error_iff, ← classOf_toNat, ← fieldN_toNat, ← fieldNN_toNat]
  fun_cases tagOf w with
  | case1 h | case2 _ h => subst h; decide
  | case3 _ _ hc | case4 _ _ hc | case5 _ _ hc | case6 _ _ hc | case9 _ _ hc | case10 _ _ hc | case14 _ _ hc
  | case15 _ _ hc | case16 _ _ hc | case17 _ _ hc => rw [hc]; simp
  | case7 _ _ hc hn | case12 _ _ hc hn => rw [hc, hn]; simp
  | case8 _ _ hc hn | case13 _ _ hc hn =>
    have hn : w.toNat % 16 ≠ 0 := fun h => hn (BitVec.eq_of_toNat_eq ((fieldN_toNat w).trans h))
    rw [hc]
    simp [hn]
  | case11 _ _ hc => rw [hc, aluTag_eq_unrecognized, aluOpOf_eq_none]; simp
  | case18 _ _ hc => rw [hc, keyTag_eq_unrecognized, keyTagOf_eq_none]; simp
  | case19 _ _ hc => rw [hc, miscTag_eq_unrecognized, miscTagOf_eq_none]; simp
  | case20 hcls hret =>
    have hzero : classOf w = 0x0#4 := by
      generalize classOf w = c at *
      revert c
      decide
    rw [hzero]
    exact ⟨fun _ => .inl ⟨rfl, fun h => hcls (BitVec.eq_of_toNat_eq h), fun h => hret (BitVec.eq_of_toNat_eq h)⟩,
      fun _ => rfl⟩

/-- Settles O6: each word is decoded by evaluation. -/
theorem sampleWordsDecode : Obligations.SampleWordsDecode := by
  unfold Obligations.SampleWordsDecode
  decide

/-! ### Words as bytes -/

@[simp] theorem wordOfBytes_high_low (w : Word) : wordOfBytes (highByte w) (lowByte w) = w :=
  (BitVec.extractLsb'_append_extractLsb'_eq_extractLsb' (by rfl)).trans BitVec.extractLsb'_eq_self

theorem highByte_eq_ofNat (w : Word) : highByte w = BitVec.ofNat 8 (w.toNat / 256) := by
  apply BitVec.eq_of_toNat_eq
  rw [highByte, BitVec.extractLsb'_toNat, Nat.shiftRight_eq_div_pow, BitVec.toNat_ofNat]

theorem lowByte_eq_ofNat (w : Word) : lowByte w = BitVec.ofNat 8 (w.toNat % 256) := by
  apply BitVec.eq_of_toNat_eq
  rw [lowByte, BitVec.extractLsb'_toNat, Nat.shiftRight_zero, BitVec.toNat_ofNat, Nat.mod_mod]

/-- Settles O7: the two bytes make the word again, and the word decodes to its instruction. -/
theorem bytesDecodeHighByteFirst : Obligations.BytesDecodeHighByteFirst := by
  intro i rest
  constructor
  · simp only [encodeBytes, List.cons_append, List.nil_append, decodeBytes, wordOfBytes_high_low,
      decodeOfEncodeIsIdentity i]
  · rw [encodeBytes, highByte_eq_ofNat, lowByte_eq_ofNat]

end Sys2Proof
end

section
/-! PROOFS. The compositor (43_display.md R152 to R156). Each cell a sprite covers is flipped once, so the effect of a
flip, a row and a sprite is one relation, `FlipsExactly`, which composes over disjoint sets of cells. -/

namespace Sys2Proof.Machine

/-- What a flip makes of a cell (43_display.md R152). -/
def flipped (c : Byte) : Byte := if c = 0xFF#8 then 0xF7#8 else 0xFF#8

theorem legalIntensity_flipped (c : Byte) : legalIntensity (flipped c) := by
  unfold flipped
  split <;> exact .inr rfl

/-- The cells of `cov` are flipped once, the others stay, and the collision says whether one of `cov` was fully lit. -/
structure FlipsExactly (cov : Fin 64 → Fin 32 → Prop) (acc acc' : Framebuffer × Bool) : Prop where
  covered : ∀ x y, cov x y → cell acc'.1 x y = flipped (cell acc.1 x y)
  other : ∀ x y, ¬ cov x y → cell acc'.1 x y = cell acc.1 x y
  hit : acc'.2 = true ↔ acc.2 = true ∨ ∃ x y, cov x y ∧ cell acc.1 x y = 0xFF#8

namespace FlipsExactly
variable {cov cov₁ cov₂ : Fin 64 → Fin 32 → Prop} {acc acc₁ acc₂ : Framebuffer × Bool}

theorem of_empty (h : ∀ x y, ¬ cov x y) : FlipsExactly cov acc acc where
  covered x y hc := absurd hc (h x y)
  other _ _ _ := rfl
  hit := ⟨.inl, fun hit => hit.elim id fun ⟨x, y, hc, _⟩ => absurd hc (h x y)⟩

theorem of_flip (acc : Framebuffer × Bool) (x : Fin 64) (y : Fin 32) :
    FlipsExactly (fun a b => a = x ∧ b = y) acc (flip acc x y) where
  covered := by
    rintro _ _ ⟨rfl, rfl⟩
    rw [cell_flip, if_pos ⟨rfl, rfl⟩, flipped]
  other a b h := by rw [cell_flip, if_neg h]
  hit := by simp [flip_hit]

theorem congr (h : FlipsExactly cov₁ acc acc₁) (hc : ∀ x y, cov x y ↔ cov₁ x y) : FlipsExactly cov acc acc₁ := by
  have heq : cov = cov₁ := funext₂ fun x y => propext (hc x y)
  exact heq ▸ h

/-- Flips of disjoint sets of cells compose: the second set is untouched by the first flips. -/
theorem trans (h₁ : FlipsExactly cov₁ acc acc₁) (h₂ : FlipsExactly cov₂ acc₁ acc₂)
    (hdisj : ∀ x y, cov₁ x y → ¬ cov₂ x y) : FlipsExactly (fun x y => cov₁ x y ∨ cov₂ x y) acc acc₂ where
  covered x y hc := by
    rcases hc with hc | hc
    · rw [h₂.other x y (hdisj x y hc), h₁.covered x y hc]
    · rw [h₂.covered x y hc, h₁.other x y fun hc₁ => hdisj x y hc₁ hc]
  other x y hc := by
    obtain ⟨hc₁, hc₂⟩ := not_or.mp hc
    rw [h₂.other x y hc₂, h₁.other x y hc₁]
  hit := by
    have hlater : (∃ x y, cov₂ x y ∧ cell acc₁.1 x y = 0xFF#8) ↔ ∃ x y, cov₂ x y ∧ cell acc.1 x y = 0xFF#8 :=
      exists₂_congr fun x y => and_congr_right fun hc => by rw [h₁.other x y fun hc₁ => hdisj x y hc₁ hc]
    simp only [h₂.hit, h₁.hit, hlater, or_and_right, exists_or, or_assoc]

/-- Flips keep every cell legal (43_display.md R150). -/
theorem legal (h : FlipsExactly cov acc acc₁) (hacc : ∀ x y, legalIntensity (cell acc.1 x y)) (x : Fin 64)
    (y : Fin 32) : legalIntensity (cell acc₁.1 x y) := by
  by_cases hc : cov x y
  · rw [h.covered x y hc]; exact legalIntensity_flipped _
  · rw [h.other x y hc]; exact hacc x y

end FlipsExactly

/-- The cells that the first `k` columns of a sprite row set, at screen row `y` (43_display.md R154). -/
def rowCovers (x0 y : Nat) (row : Byte) (k : Nat) (a : Fin 64) (b : Fin 32) : Prop :=
  b = y ∧ x0 ≤ a ∧ (a : Nat) < x0 + k ∧ row.getLsbD (7 - (a - x0)) = true

theorem drawColumn_flips (x0 : Nat) (y : Fin 32) (row : Byte) (acc : Framebuffer × Bool) (c : Nat) :
    FlipsExactly (fun a b => b = y ∧ (a : Nat) = x0 + c ∧ row.getLsbD (7 - c) = true) acc
      (drawColumn x0 y row acc c) := by
  unfold drawColumn
  split
  · next hin =>
    split
    · next hbit =>
      refine (FlipsExactly.of_flip acc ⟨x0 + c, hin⟩ y).congr fun a b => ?_
      simp [hbit, Fin.ext_iff, and_comm]
    · next hbit => exact .of_empty fun _ _ h => hbit h.2.2
  · next hout => exact .of_empty fun a _ h => hout (h.2.1 ▸ a.isLt)

theorem foldl_drawColumn_flips (x0 : Nat) (y : Fin 32) (row : Byte) (acc : Framebuffer × Bool) (k : Nat) :
    FlipsExactly (rowCovers x0 y row k) acc ((List.range k).foldl (drawColumn x0 y row) acc) := by
  induction k with
  | zero => exact .of_empty fun a b h => by obtain ⟨-, hge, hlt, -⟩ := h; omega
  | succ k ih =>
    rw [List.range_succ, List.foldl_append]
    refine (ih.trans (drawColumn_flips x0 y row _ k) ?_).congr ?_
    · rintro a b ⟨-, -, hlt, -⟩ ⟨-, heq, -⟩
      omega
    · intro a b
      simp only [rowCovers, Fin.val_inj]
      constructor
      · rintro ⟨hb, hge, hlt, hbit⟩
        by_cases hk : (a : Nat) < x0 + k
        · exact .inl ⟨hb, hge, hk, hbit⟩
        · have hlast : (a : Nat) - x0 = k := by omega
          exact .inr ⟨hb, by omega, hlast ▸ hbit⟩
      · rintro (⟨hb, hge, hlt, hbit⟩ | ⟨hb, heq, hbit⟩)
        · exact ⟨hb, hge, by omega, hbit⟩
        · have hlast : (a : Nat) - x0 = k := by omega
          exact ⟨hb, by omega, by omega, hlast ▸ hbit⟩

theorem drawRow_flips (x0 y : Nat) (row : Byte) (acc : Framebuffer × Bool) :
    FlipsExactly (rowCovers x0 y row 8) acc (drawRow x0 y row acc) := by
  unfold drawRow
  split
  · next hin => exact foldl_drawColumn_flips x0 ⟨y, hin⟩ row acc 8
  · next hout => exact .of_empty fun _ b h => hout (h.1 ▸ b.isLt)

/-- The cells that the rows of a sprite at (x0, y0) set (43_display.md R154 to R156). -/
def rowsCover (x0 y0 : Nat) (rows : List Byte) (a : Fin 64) (b : Fin 32) : Prop :=
  x0 ≤ a ∧ (a : Nat) < x0 + 8 ∧ y0 ≤ b ∧ (b : Nat) < y0 + rows.length ∧
    (rows.getD (b - y0) 0#8).getLsbD (7 - (a - x0)) = true

theorem rowsCover_cons {x0 y0 : Nat} {row : Byte} {rows : List Byte} {a : Fin 64} {b : Fin 32} :
    rowsCover x0 y0 (row :: rows) a b ↔ rowCovers x0 y0 row 8 a b ∨ rowsCover x0 (y0 + 1) rows a b := by
  simp only [rowsCover, rowCovers, List.length_cons]
  by_cases hfirst : (b : Nat) = y0
  · have hlater : ¬ y0 + 1 ≤ (b : Nat) := by omega
    simp [hfirst]
  · have hnext : y0 + 1 ≤ (b : Nat) ↔ y0 ≤ b := by omega
    have hlt : (b : Nat) < y0 + 1 + rows.length ↔ (b : Nat) < y0 + (rows.length + 1) := by omega
    simp only [hfirst, false_and, false_or, hnext, hlt]
    refine and_congr_right fun _ => and_congr_right fun _ => and_congr_right fun hge => and_congr_right fun _ => ?_
    have hidx : (b : Nat) - y0 = (b - (y0 + 1)) + 1 := by omega
    rw [hidx, List.getD_cons_succ]

theorem drawRows_flips (x0 y0 : Nat) (rows : List Byte) (acc : Framebuffer × Bool) :
    FlipsExactly (rowsCover x0 y0 rows) acc (drawRows x0 y0 rows acc) := by
  induction rows generalizing y0 acc with
  | nil => exact .of_empty fun a b h => by obtain ⟨-, -, hge, hlt, -⟩ := h; simp at hlt; omega
  | cons row rows ih =>
    refine ((drawRow_flips x0 y0 row acc).trans (ih (y0 + 1) _) ?_).congr fun _ _ => rowsCover_cons
    rintro a b ⟨heq, -⟩ ⟨-, -, hge, -⟩
    omega

/-- The sprite compositor flips exactly the cells its rows set, and reports their collision (43_display.md R155). -/
theorem drawSprite_flips (fb : Framebuffer) (x0 y0 : Nat) (rows : List Byte) :
    FlipsExactly (rowsCover x0 y0 rows) (fb, false) (drawSprite fb x0 y0 rows) := drawRows_flips x0 y0 rows (fb, false)

/-! ### DXYN -/

/-- The framebuffer and the collision of DXYN: the compositor on the n bytes at I. -/
def State.drawn (s : State) (vx vy : RegIx) (n : Nibble) : Framebuffer × Bool :=
  drawSprite s.fb (startColumn (s.reg vx)) (startRow (s.reg vy)) (s.bytesAt s.i.toNat n.toNat)

theorem exec_drw_of_fits {vx vy : RegIx} {n : Nibble} {s : State} (h : s.i.toNat + n.toNat ≤ 4096 ∨ n.toNat = 0) :
    exec (.drw vx vy n) s = .next ({ s with fb := (s.drawn vx vy n).1 }.setFlag (s.drawn vx vy n).2) := by
  simp only [exec, execDrw, State.indexAddr, readBlock_ok h, complete_ok, State.drawn]

/-- The cells of `spriteCovers` are those the rows of the sprite set. -/
theorem spriteCovers_iff_rowsCover {s : State} {vx vy : RegIx} {n : Nibble} {x : Fin 64} {y : Fin 32} :
    spriteCovers s vx vy n x y ↔
      rowsCover (startColumn (s.reg vx)) (startRow (s.reg vy)) (s.bytesAt s.i.toNat n.toNat) x y := by
  simp only [spriteCovers, rowsCover, startColumn, startRow, State.bytesAt_length]
  refine and_congr_right fun _ => and_congr_right fun _ => and_congr_right fun hge => and_congr_right fun hlt => ?_
  rw [State.bytesAt_getD _ _ _ _ _ (Nat.sub_lt_left_of_lt_add hge hlt)]

theorem drawn_flips (s : State) (vx vy : RegIx) (n : Nibble) :
    FlipsExactly (spriteCovers s vx vy n) (s.fb, false) (s.drawn vx vy n) :=
  (drawSprite_flips ..).congr fun _ _ => spriteCovers_iff_rowsCover

/-- Settles O39: DXYN flips the covered cells, and VF is the collision. -/
theorem drawMatchesPerCellForm : Obligations.DrawMatchesPerCellForm := by
  intro vx vy n s hfit
  have hflips := drawn_flips s vx vy n
  refine ⟨_, exec_drw_of_fits (by omega), hflips.covered, hflips.other, fun hlit => ?_, fun hdark => ?_, fun r hr => ?_,
    rfl⟩
  · rw [State.reg_setFlag, if_pos rfl, hflips.hit.mpr (.inr hlit), flagByte_true]
  · have hmiss : (s.drawn vx vy n).2 = false := by
      rw [← Bool.not_eq_true, hflips.hit]
      rintro (hf | ⟨x, y, hc, hlit⟩)
      · cases hf
      · exact hdark x y hc hlit
    rw [State.reg_setFlag, if_pos rfl, hmiss, flagByte_false]
  · rw [State.reg_setFlag, if_neg (List.ne_of_not_mem_cons hr)]
    rfl

/-- A sprite that runs past 0xFFF fails at the block read, before anything is drawn. -/
theorem exec_drw_past {vx vy : RegIx} {n : Nibble} {s : State} (hn : 1 ≤ n.toNat) (h : 4096 < s.i.toNat + n.toNat) :
    exec (.drw vx vy n) s = .next (s.raise (.memoryOutOfRange (max s.i.toNat 4096) .read)) := by
  simp only [exec, execDrw, State.indexAddr, readBlock_error h (Nat.ne_of_gt hn), complete_error]

/-- Settles O40, by the equation of the sprite that runs past 0xFFF. -/
theorem drawPastMemoryHalts : Obligations.DrawPastMemoryHalts := fun _ _ _ _ hn hout =>
  ⟨_, exec_drw_past hn (by omega), rfl⟩

/-! ### The fade of a cell that a collision turned off -/

theorem cell_fadeFb_iterate (fb : Framebuffer) (x : Fin 64) (y : Fin 32) (k : Nat) :
    cell (fadeFb^[k] fb) x y = fadeCell^[k] (cell fb x y) := by
  induction k with
  | zero => rfl
  | succ k ih => rw [Function.iterate_succ_apply', cell_fadeFb, ih, Function.iterate_succ_apply']

/-- The trajectory of 43_display.md R158. -/
theorem fadeCell_iterate_toNat (k : Nat) :
    (fadeCell^[k] 0xF7#8).toNat = if k ≤ 30 then 0xF7 - 8 * k else 0 := by
  induction k with
  | zero => rfl
  | succ k ih =>
    rw [Function.iterate_succ_apply', fadeCell_toNat, ih]
    split_ifs <;> omega

/-- Settles O42: the flip leaves 0xF7, and no cell of its trajectory is fully lit again before the next flip. -/
theorem fadeTrajectory : Obligations.FadeTrajectory := by
  intro fb x y k hlit
  have hdim : cell (flip (fb, false) x y).1 x y = 0xF7#8 := by rw [cell_flip, if_pos ⟨rfl, rfl⟩, if_pos hlit]
  have hcell : cell (fadeFb^[k] (flip (fb, false) x y).1) x y = fadeCell^[k] 0xF7#8 := by
    rw [cell_fadeFb_iterate, hdim]
  have hfaded := fadeCell_iterate_toNat k
  have hne : fadeCell^[k] 0xF7#8 ≠ 0xFF#8 := fun h => by
    rw [h, BitVec.toNat_ofNat] at hfaded
    split at hfaded <;> omega
  refine ⟨hcell ▸ hfaded, ?_, ?_⟩
  · simp [flip_hit, hcell, hne]
  · rw [cell_flip, if_pos ⟨rfl, rfl⟩, hcell, if_neg hne]

/-! ### FBREAD -/

/-- An entry of a concatenation of lists of one length. -/
theorem getElem?_flatMap_of_length {α β : Type} {f : α → List β} {n : Nat} (hf : ∀ a, (f a).length = n) (l : List α)
    (i : Nat) {j : Nat} (hj : j < n) : (l.flatMap f)[i * n + j]? = l[i]?.bind fun a => (f a)[j]? := by
  induction l generalizing i with
  | nil => simp
  | cons a l ih =>
    rw [List.flatMap_cons]
    cases i with
    | zero => rw [Nat.zero_mul, Nat.zero_add, List.getElem?_append_left (by rw [hf]; exact hj)]; rfl
    | succ i =>
      have hidx : (i + 1) * n + j = n + (i * n + j) := by rw [Nat.succ_mul]; omega
      rw [hidx, List.getElem?_append_right (by rw [hf]; omega), hf, Nat.add_sub_cancel_left, ih]
      rfl

/-- Settles O43: FB is 32 rows of 64 cells, and FBREAD answers the rows one after the other. -/
theorem fbreadIsRowMajor : Obligations.FbreadIsRowMajor := by
  intro s hs
  refine ⟨cellsOf s.fb, applyOp_fbread_eq_next.mpr ⟨hs, rfl, rfl⟩, ?_, fun x y => ?_⟩
  · simp [cellsOf, List.length_flatMap]
  · rw [cellsOf, getElem?_flatMap_of_length (fun row => row.length_toList) _ _ x.isLt]
    simp [cell]

end Sys2Proof.Machine
end

section
/-! PROOFS. What every step keeps. A step is one of the operations; `KeptByOperations` lists what an invariant has to
survive, an instruction being one of the shapes of `ExecShape`, and `KeptByOperations.step` is the induction's step once
for all invariants. -/

namespace Sys2Proof.Machine

/-- `P` survives everything an operation does to the state. -/
structure KeptByOperations (P : State → Prop) : Prop where
  /-- the model's own fields: the driver's list, the draws, the inputs of a STEP -/
  ownFields : ∀ s inputs driver draws, P s → P { s with inputs := inputs, driver := driver, draws := draws }
  load : ∀ s image compat, image.length ≤ Config.maxImageBytes → P s → P (s.loaded image compat)
  /-- a fatal condition of LOAD, of the fetch or of the decode -/
  halt : ∀ s f, P s → P (s.halt f)
  exec : ∀ s t, fetchable s → ExecShape s.advance t → P s → P t
  tick : ∀ s, P s → P s.tick
  fade : ∀ s, P s → P { s with fb := fadeFb s.fb }

namespace KeptByOperations
variable {P : State → Prop} (hP : KeptByOperations P)
include hP

theorem loadOp {image : List Byte} {compat : Bool} {s t : State} (hs : P s)
    (h : Machine.loadOp image compat s = .next t) : P t := by
  by_cases hfit : image.length ≤ Config.maxImageBytes
  · rw [loadOp_of_fits hfit] at h
    cases h
    exact hP.load s image compat hfit hs
  · rw [Machine.loadOp, if_pos (Nat.lt_of_not_le hfit)] at h
    cases h
    exact hP.halt s _ hs

theorem cycle {s t : State} (hs : P s) (h : Machine.cycle s = .next t) : P t := by
  rcases cycle_cases s with ⟨-, hc⟩ | ⟨hf, w, -, ⟨e, -, hc⟩ | ⟨i, -, hc⟩⟩ <;> rw [hc] at h
  · cases h
    exact hP.halt s _ hs
  · cases h
    exact hP.halt s _ hs
  · exact hP.exec s t hf (exec_shape h) hs

/-- A step keeps what every operation keeps. -/
theorem step {s t : State} (hs : P s) (h : Machine.step s = .next t) : P t := by
  obtain ⟨op, u, hnext, h⟩ := step_cases h
  have hu : P u := by
    have hsnd : P (nextOperation s).2 := by
      rw [nextOperation_frame]
      exact hP.ownFields s s.inputs _ _ hs
    rwa [hnext] at hsnd
  rcases h with ⟨image, compat, -, hload⟩ | ⟨inputs, -, -, hcycle⟩ | ⟨-, -, rfl⟩ | ⟨-, -, rfl⟩ | ⟨-, -, rfl⟩
  · exact hP.loadOp hu hload
  · exact hP.cycle (hP.ownFields u inputs u.driver u.draws hu) hcycle
  · exact hP.tick u hu
  · exact hP.fade u hu
  · exact hu

end KeptByOperations

/-! ### The invariants -/

theorem ExecShape.memCanonical {s t : State} (h : ExecShape s t) (hs : memCanonical s) : memCanonical t := by
  cases h with
  | store base bytes i hfit =>
    have hwf := State.wf_setBytesAt hs hfit
    rwa [State.setBytesAt_params] at hwf
  | skip c => rwa [Machine.memCanonical, State.skipIf_params, State.skipIf_mem]
  | _ => exact hs

/-- An image that LOAD accepts ends below the end of MEM (90_conflicts.md C1). -/
theorem image_end_le_memSize {image : List Byte} (h : image.length ≤ Config.maxImageBytes) :
    Config.programBase + image.length ≤ Config.memSize :=
  (Nat.add_le_add_left h _).trans (by decide)

/-- Settles O13: of the operations only LOAD, FX33 and FX55 write MEM, and what they write is checked to fit. -/
theorem stepKeepsMemoryCanonical : Obligations.StepKeepsMemoryCanonical := fun _ _ =>
  KeptByOperations.step
    { ownFields := fun _ _ _ _ hs => hs
      load := fun s _ _ hfit _ => Memory.wf_installImage (Memory.wf_nil s.params.font) (image_end_le_memSize hfit)
      halt := fun _ _ hs => hs
      exec := fun _ _ _ hshape hs => hshape.memCanonical hs
      tick := fun _ hs => hs
      fade := fun _ hs => hs }

theorem faultMatchesRun_halt (s : State) (f : Fatal) : faultMatchesRun (s.halt f) :=
  ⟨fun _ => Option.some_ne_none f, fun _ => rfl⟩

/-- An instruction raises a fatal condition, or it leaves RUN and FAULT. -/
theorem ExecShape.raised_or_same_run {s t : State} (h : ExecShape s t) :
    (∃ f, t = s.raise f) ∨ t.run = s.run ∧ t.fault = s.fault := by
  cases h with
  | raised f => exact .inl ⟨f, rfl⟩
  | skip c => exact .inr ⟨s.skipIf_run c, s.skipIf_fault c⟩
  | _ => exact .inr ⟨rfl, rfl⟩

theorem ExecShape.faultMatchesRun {s t : State} (h : ExecShape s t) (hs : faultMatchesRun s) : faultMatchesRun t := by
  rcases h.raised_or_same_run with ⟨f, rfl⟩ | ⟨hrun, hfault⟩
  · exact faultMatchesRun_halt s.rewind f
  · rwa [Machine.faultMatchesRun, hrun, hfault]

/-- Settles O14: RUN becomes halted together with the fault record, and LOAD clears both. -/
theorem stepKeepsFaultMatchesRun : Obligations.StepKeepsFaultMatchesRun := fun _ _ =>
  KeptByOperations.step
    { ownFields := fun _ _ _ _ hs => hs
      load := fun s image compat _ _ => by simp [faultMatchesRun, State.loaded]
      halt := fun s f _ => faultMatchesRun_halt s f
      exec := fun _ _ _ hshape hs => hshape.faultMatchesRun hs
      tick := fun _ hs => hs
      fade := fun _ hs => hs }

theorem legalIntensity_fadeCell {c : Byte} (h : legalIntensity c) : legalIntensity (fadeCell c) := by
  have hfaded := fadeCell_toNat c
  rcases h with rfl | hmod
  · exact .inl rfl
  · by_cases hlast : c.toNat = 7
    · exact .inl (BitVec.eq_of_toNat_eq (by simp [hfaded, hlast]))
    · refine .inr (hfaded ▸ ?_)
      split <;> omega

theorem ExecShape.fbLegal {s t : State} (h : ExecShape s t) (hs : fbLegal s) : fbLegal t := by
  cases h with
  | cls => exact fun x y => .inl (cell_blankFb x y)
  | drw v x0 y0 rows => exact (drawSprite_flips s.fb x0 y0 rows).legal hs
  | skip c => rwa [Machine.fbLegal, State.skipIf_fb]
  | _ => exact hs

/-- Settles O15: a cell is blanked, flipped to 0xFF or 0xF7, or faded by 8. -/
theorem stepKeepsIntensitiesLegal : Obligations.StepKeepsIntensitiesLegal := fun _ _ =>
  KeptByOperations.step
    { ownFields := fun _ _ _ _ hs => hs
      load := fun _ _ _ _ _ x y => .inl (cell_blankFb x y)
      halt := fun _ _ hs => hs
      exec := fun _ _ _ hshape hs => hshape.fbLegal hs
      tick := fun _ hs => hs
      fade := fun s hs x y => cell_fadeFb s.fb x y ▸ legalIntensity_fadeCell (hs x y) }

theorem advance_pc_toNat {s : State} (h : fetchable s) : (s.advance).pc.toNat = s.pc.toNat + 2 := by
  have hle : s.pc.toNat ≤ 0xFFE := h
  rw [State.advance_pc, BitVec.toNat_add, BitVec.toNat_ofNat]
  omega

/-- An instruction fetched from PC keeps the bounds: a jump's target is bounded by its encoding, a skip adds 2 to a PC
that could be fetched, and a return address is such a PC plus 2 (30_encoding.md R91). -/
theorem ExecShape.pcBounded {s t : State} (hf : fetchable s) (h : ExecShape s.advance t) (hs : pcBounded s) :
    pcBounded t := by
  obtain ⟨hpc, hstack⟩ := hs
  have hle : s.pc.toNat ≤ 0xFFE := hf
  have hadv := advance_pc_toNat hf
  cases h with
  | raised f => exact ⟨by rw [State.raise_advance]; exact hpc, hstack⟩
  | again => exact ⟨by rw [State.rewind_pc, State.advance_pc, BitVec.add_sub_cancel]; exact hpc, hstack⟩
  | jump p hp => exact ⟨hp, hstack⟩
  | skip c =>
    refine ⟨?_, by rwa [State.skipIf_stack]⟩
    rw [State.skipIf_pc]
    split
    · rw [BitVec.toNat_add, BitVec.toNat_ofNat, hadv]
      omega
    · omega
  | ret a below hst =>
    have hmem : ∀ b ∈ below ++ [a], b.toNat ≤ 0x1000 := hst ▸ hstack
    exact ⟨(hmem a (by simp)).trans (by decide), fun b hb => hmem b (List.mem_append_left _ hb)⟩
  | call p hp hroom =>
    refine ⟨hp.trans (by decide), fun b hb => ?_⟩
    rcases List.mem_append.mp hb with hb | hb
    · exact hstack b hb
    · rw [List.mem_singleton.mp hb]
      omega
  | _ => exact ⟨by show s.advance.pc.toNat ≤ 0x10FE; omega, hstack⟩

/-- Settles O16, by the bounds each instruction keeps; every other operation leaves PC and STACK or resets them. -/
theorem stepKeepsPcBounded : Obligations.StepKeepsPcBounded := fun _ _ =>
  KeptByOperations.step
    { ownFields := fun _ _ _ _ hs => hs
      load := fun _ _ _ _ _ => ⟨(by decide : 0x200 ≤ 0x10FE), fun _ ha => absurd ha List.not_mem_nil⟩
      halt := fun _ _ hs => hs
      exec := fun _ _ hf hshape hs => hshape.pcBounded hf hs
      tick := fun _ hs => hs
      fade := fun _ hs => hs }

/-- STACK is full exactly when its finite depth is reached; beyond it too (log 5). -/
theorem State.stackFull_iff (s : State) :
    s.stackFull = true ↔ ∃ depth, s.params.stackDepth = some depth ∧ depth ≤ s.stack.length := by
  unfold State.stackFull
  cases s.params.stackDepth <;> simp

theorem ExecShape.stackBounded {s t : State} (h : ExecShape s t) (hs : stackBounded s) : stackBounded t := by
  cases h with
  | ret a below hst =>
    intro depth hdepth
    have hlen := hs depth hdepth
    rw [hst, List.length_append] at hlen
    exact (Nat.le_add_right _ _).trans hlen
  | call p hp hroom =>
    intro depth hdepth
    have hlt : ¬ depth ≤ s.stack.length := fun hfull => by
      rw [s.stackFull_iff.mpr ⟨depth, hdepth, hfull⟩] at hroom
      cases hroom
    rw [List.length_append, List.length_singleton]
    omega
  | skip c => rwa [Machine.stackBounded, State.skipIf_params, State.skipIf_stack]
  | _ => exact hs

/-- Settles O17: CALL pushes only below the depth. -/
theorem stepKeepsStackWithinDepth : Obligations.StepKeepsStackWithinDepth := fun _ _ =>
  KeptByOperations.step
    { ownFields := fun _ _ _ _ hs => hs
      load := fun _ _ _ _ _ _ _ => Nat.zero_le _
      halt := fun _ _ hs => hs
      exec := fun _ _ _ hshape hs => hshape.stackBounded hs
      tick := fun _ hs => hs
      fade := fun _ hs => hs }

theorem ExecShape.params_eq {s t : State} (h : ExecShape s t) : t.params = s.params := by
  cases h with
  | skip c => exact s.skipIf_params c
  | _ => rfl

/-- Settles O19: no operation writes the parameters. -/
theorem stepKeepsParameters : Obligations.StepKeepsParameters := fun s _ =>
  KeptByOperations.step (P := fun t => t.params = s.params)
    { ownFields := fun _ _ _ _ hs => hs
      load := fun _ _ _ _ hs => hs
      halt := fun _ _ hs => hs
      exec := fun _ _ _ hshape hs => hshape.params_eq.trans hs
      tick := fun _ hs => hs
      fade := fun _ hs => hs }
    rfl

/-- Settles O18: reset has nothing listed in MEM, no fault, a blank framebuffer and an empty STACK. -/
theorem resetMeetsInvariants : Obligations.ResetMeetsInvariants :=
  ⟨Memory.wf_nil _, by simp [faultMatchesRun, State.reset], fun x y => .inl (cell_blankFb x y),
    ⟨by decide, fun _ ha => absurd ha List.not_mem_nil⟩, fun _ _ => Nat.zero_le _⟩

end Sys2Proof.Machine
end

section
/-! PROOFS. The step cycle and the operations (30_encoding.md R90, 60_exceptions.md section 1,
70_reset_and_hazards.md). -/

namespace Sys2Proof.Machine

/-! ### The driver and the STEP -/

theorem step_of_driver_cons {s : State} {op : Operation} {rest : List Operation} (h : s.driver = op :: rest) :
    step s = dropResult (applyOp op { s with driver := rest }) := by
  rw [step, driverStep, nextOperation_cons h]

/-- With no operation named a step is the step with the free operation named. -/
theorem step_of_driver_nil {s : State} (h : s.driver = []) :
    step s = step { s with driver := [Config.operation s.draws], draws := s.draws + 1 } := by
  rw [step_of_driver_cons (s := { s with driver := [_], draws := _ }) rfl, step, driverStep, nextOperation_nil h, ← h]

theorem stepOp_of_running {s : State} (h : s.run = .running) (inputs : StepInputs) :
    stepOp inputs s = cycle { s with inputs := inputs } := whenRunning_running h _

/-- Settles O8: the driver's two cases, and the cycle on a word that decodes. -/
theorem stepRunsDecodedInstruction : Obligations.StepRunsDecodedInstruction := by
  refine ⟨fun _ _ _ => step_of_driver_cons, fun _ => step_of_driver_nil, fun s i inputs rest hrun hf hd hdriver => ?_⟩
  rw [step_of_driver_cons hdriver, applyOp, dropResult_noResult,
    stepOp_of_running (s := { s with driver := rest }) hrun]
  exact cycle_of_decode_ok (s := { s with inputs := inputs, driver := rest }) hf hd

/-- Settles O9: the two fatal outcomes of the cycle before an instruction executes. -/
theorem fetchAndDecodeFaults : Obligations.FetchAndDecodeFaults := by
  intro inputs s hrun
  rw [stepOp_of_running hrun]
  exact ⟨fun hout => ⟨_, cycle_of_not_fetchable (s := { s with inputs := inputs }) (Nat.not_le_of_lt hout), rfl⟩,
    fun hf hd => ⟨_, cycle_of_decode_error (s := { s with inputs := inputs }) hf hd, rfl⟩⟩

/-- Settles O10, by the check of RUN each operation makes; LOAD makes none. -/
theorem operationsRequireRunning : Obligations.OperationsRequireRunning := by
  refine fun s inputs image compat => ⟨fun hrun => ?_, fun hrun => ?_, fun hfit => ?_⟩
  · exact ⟨whenRunning_halted hrun _, whenRunning_halted hrun _, whenRunning_halted hrun _, by rw [fbreadOp, hrun]⟩
  · exact ⟨whenRunning_unloaded hrun _, whenRunning_unloaded hrun _, whenRunning_unloaded hrun _,
      by rw [fbreadOp, hrun]⟩
  · exact ⟨_, loadOp_of_fits hfit compat s, rfl, rfl⟩

/-- A cycle on a running machine that ends halted raised a fatal condition, and PC is back at the instruction. -/
theorem cycle_halted {s t : State} (hrun : s.run = .running) (h : cycle s = .next t) (ht : t.run = .halted) :
    ∃ f, t = s.halt f := by
  rcases cycle_cases s with ⟨-, hc⟩ | ⟨-, w, -, ⟨e, -, hc⟩ | ⟨i, -, hc⟩⟩ <;> rw [hc] at h
  · cases h
    exact ⟨_, rfl⟩
  · cases h
    exact ⟨_, rfl⟩
  · rcases (exec_shape h).raised_or_same_run with ⟨f, rfl⟩ | ⟨hsame, -⟩
    · exact ⟨f, s.raise_advance f⟩
    · rw [hsame, State.advance_run, hrun] at ht
      cases ht

/-- Settles O11: a STEP that ends halted is the cycle's halt of the state with its inputs. -/
theorem fatalConditionsArePrecise : Obligations.FatalConditionsArePrecise := by
  intro inputs s t h ht
  obtain ⟨hrun, hc⟩ := whenRunning_next h
  exact cycle_halted (s := { s with inputs := inputs }) hrun hc ht

/-! ### LOAD -/

theorem Memory.initial_font (font : Font) {k : Nat} (h : k < 80) : Memory.initial font (0x050 + k) = font[k] := by
  have hin : 0x050 ≤ 0x050 + k ∧ 0x050 + k < 0x050 + 80 := by omega
  simp only [Memory.initial, dif_pos hin, Nat.add_sub_cancel_left]

theorem Memory.initial_eq_zero {font : Font} {a : Nat} (h : a < 0x050 ∨ 0x0A0 ≤ a) : Memory.initial font a = 0#8 := by
  have hout : ¬ (0x050 ≤ a ∧ a < 0x050 + 80) := by omega
  exact dif_neg hout

theorem State.byteAt_loaded {image : List Byte} (h : image.length ≤ Config.maxImageBytes) (compat : Bool) (s : State)
    (a : Nat) :
    (s.loaded image compat).byteAt a =
      if a < 0x200 then Memory.initial s.params.font a else image.getD (a - 0x200) (Memory.initial s.params.font a) :=
  Memory.read_installImage (Memory.wf_nil s.params.font) (image_end_le_memSize h) a

/-- Settles O55: MEM is the image over what an unlisted address reads as; `State.loaded` sets the other
elements. -/
theorem loadSetsEveryElement : Obligations.LoadSetsEveryElement := by
  intro image compat s hfit
  have hbyte := State.byteAt_loaded hfit compat s
  refine ⟨_, loadOp_of_fits hfit compat s, fun r => Vector.getElem_replicate .., rfl, rfl, rfl, rfl, rfl, rfl,
    cell_blankFb, rfl, rfl, fun k hk => ?_, fun k hk => ?_, fun a ha => ?_, rfl, rfl, rfl, rfl⟩
  · rw [hbyte, if_neg (by omega), Nat.add_sub_cancel_left, List.getD_eq_getElem _ _ hk]
  · rw [hbyte, if_pos (by omega), Memory.initial_font _ hk]
  · have hinitial : Memory.initial s.params.font a = 0#8 := Memory.initial_eq_zero (by omega)
    rw [hbyte, hinitial]
    split
    · rfl
    · exact List.getD_eq_default _ _ (by omega)

/-- Settles O56: the image's length is checked before anything else. -/
theorem oversizeLoadHalts : Obligations.OversizeLoadHalts := fun image compat s h =>
  ⟨s.halt (.imageTooLarge image.length), by rw [loadOp, if_pos h], rfl⟩

theorem wordAtPc_reset : wordAtPc State.reset = 0x0000#16 := by
  have hhigh : Memory.initial Config.font 0x200 = 0#8 := Memory.initial_eq_zero (by omega)
  have hlow : Memory.initial Config.font 0x201 = 0#8 := Memory.initial_eq_zero (by omega)
  exact congrArg₂ wordOfBytes hhigh hlow

/-- Settles O57: with no image placed the word at 0x200 is 0, which is no instruction. -/
theorem resetIsLoadOfEmptyImage : Obligations.ResetIsLoadOfEmptyImage := by
  refine ⟨fun s => loadOp_of_fits (Nat.zero_le _) false s, fun inputs => ?_⟩
  have hdecode : decodeWord (wordAtPc State.reset) = .error (.unrecognized (wordAtPc State.reset)) := by
    rw [wordAtPc_reset]
    decide
  have hfetch : fetchable State.reset := (by decide : (0x200#16).toNat ≤ 0xFFE)
  obtain ⟨t, ht, hhalt⟩ := (fetchAndDecodeFaults inputs State.reset rfl).2 hfetch hdecode
  rw [wordAtPc_reset] at hhalt
  rw [hhalt] at ht
  exact ⟨_, ht, rfl, rfl, rfl⟩

end Sys2Proof.Machine
end

section
/-! PROOFS. The instructions with a check of their own (60_exceptions.md R211): one equation for the outcome where the
check passes and one for the fatal condition; those of DXYN stand with the compositor. -/

namespace Sys2Proof.Machine

/-! ### RET and CALL -/

theorem exec_ret_of_append {s : State} {a : Word} {below : List Word} (h : s.stack = below ++ [a]) :
    exec .ret s = .next { s with pc := a, stack := below } := by
  simp only [exec, execRet, h, List.getLast?_concat, List.dropLast_concat, complete_ok]

theorem exec_ret_of_empty {s : State} (h : s.stack = []) :
    exec .ret s = .next (s.raise (.stackUnderflow (s.pc - 2#16))) := by
  simp only [exec, execRet, h, List.getLast?_nil, complete_error]

theorem exec_call_of_room {s : State} (h : s.stackFull = false) (nnn : Addr) :
    exec (.call nnn) s = .next { s with pc := zextAddr nnn, stack := s.stack ++ [s.pc] } := by
  simp only [exec, execCall, h, Bool.false_eq_true, if_false, complete_ok]
  rfl

theorem exec_call_of_full {s : State} (h : s.stackFull = true) (nnn : Addr) :
    exec (.call nnn) s = .next (s.raise (.stackOverflow (s.pc - 2#16))) := by
  simp only [exec, execCall, h, if_true, complete_error]

/-- Settles O33: STACK has room exactly when it is not full. -/
theorem callSubroutine : Obligations.CallSubroutine := by
  intro nnn s
  constructor
  · intro hroom
    have hnot : s.stackFull = false := by
      rw [← Bool.not_eq_true, s.stackFull_iff]
      rintro ⟨depth, hdepth, hle⟩
      exact Nat.not_le_of_lt (hroom depth hdepth) hle
    exact ⟨_, exec_call_of_room hnot nnn, zextAddr_toNat nnn, rfl⟩
  · exact fun depth hdepth hle => ⟨_, exec_call_of_full (s.stackFull_iff.mpr ⟨depth, hdepth, hle⟩) nnn, rfl⟩

/-- Settles O34, by the two equations of RET. -/
theorem returnFromSubroutine : Obligations.ReturnFromSubroutine := fun _ =>
  ⟨fun _ _ => exec_ret_of_append, fun h => ⟨_, exec_ret_of_empty h, rfl⟩⟩

/-- Settles O35: what CALL pushed is what RET pops. -/
theorem callThenReturnResumes : Obligations.CallThenReturnResumes := by
  intro nnn s t u hroom hcall hstack
  rw [exec_call_of_room hroom] at hcall
  cases hcall
  exact ⟨_, exec_ret_of_append hstack, rfl, rfl⟩

/-! ### FX33, FX55 and FX65 -/

theorem decimalDigits_length (b : Byte) : (decimalDigits b).length = 3 := rfl

theorem exec_ldB_of_fits {x : RegIx} {s : State} (h : s.i.toNat ≤ 0xFFD) :
    exec (.ldB x) s = .next (s.setBytesAt s.i.toNat (decimalDigits (s.reg x))) := by
  have hfit : s.i.toNat + (decimalDigits (s.reg x)).length ≤ 4096 := by rw [decimalDigits_length]; omega
  simp only [exec, execLdB, State.indexAddr, writeBlock_ok (.inl hfit), complete_ok]

theorem exec_ldB_past {x : RegIx} {s : State} (h : 0xFFD < s.i.toNat) :
    exec (.ldB x) s = .next (s.raise (.memoryOutOfRange (max s.i.toNat 4096) .write)) := by
  have hout : 4096 < s.i.toNat + (decimalDigits (s.reg x)).length := by rw [decimalDigits_length]; omega
  simp only [exec, execLdB, State.indexAddr, writeBlock_error hout (Nat.succ_ne_zero 2), complete_error]

theorem exec_save_of_fits {x : RegIx} {s : State} (h : s.i.toNat + x.toNat ≤ 0xFFF) :
    exec (.save x) s = .next ((s.setBytesAt s.i.toNat (s.regsFromZero (regCount x))).advanceIndex x) := by
  have hfit : s.i.toNat + (s.regsFromZero (regCount x)).length ≤ 4096 := by rw [State.regsFromZero_length]; omega
  simp only [exec, execSave, State.indexAddr, writeBlock_ok (.inl hfit), complete_ok]

theorem exec_save_past {x : RegIx} {s : State} (h : 0xFFF < s.i.toNat + x.toNat) :
    exec (.save x) s = .next (s.raise (.memoryOutOfRange (max s.i.toNat 4096) .write)) := by
  have hlen := s.regsFromZero_length x
  have hout : 4096 < s.i.toNat + (s.regsFromZero (regCount x)).length := by omega
  simp only [exec, execSave, State.indexAddr, writeBlock_error hout (by omega), complete_error]

theorem exec_load_of_fits {x : RegIx} {s : State} (h : s.i.toNat + x.toNat ≤ 0xFFF) :
    exec (.load x) s = .next ((s.setRegsFrom 0 (s.bytesAt s.i.toNat (regCount x))).advanceIndex x) := by
  have hfit : s.i.toNat + regCount x ≤ 4096 := by rw [regCount]; omega
  simp only [exec, execLoad, State.indexAddr, readBlock_ok (.inl hfit), complete_ok]

theorem exec_load_past {x : RegIx} {s : State} (h : 0xFFF < s.i.toNat + x.toNat) :
    exec (.load x) s = .next (s.raise (.memoryOutOfRange (max s.i.toNat 4096) .read)) := by
  have hout : 4096 < s.i.toNat + regCount x := by rw [regCount]; omega
  simp only [exec, execLoad, State.indexAddr, readBlock_error hout (Nat.succ_ne_zero _), complete_error]

/-! ### What they leave in memory and in the registers -/

/-- I after FX55 and FX65, which leave it but for the advance: the 16-bit sum does not wrap. -/
theorem State.advanceIndex_i_toNat {s t : State} {x : RegIx} (hi : t.i = s.i) (h : s.i.toNat + x.toNat ≤ 0xFFF) :
    (t.advanceIndex x).i.toNat = s.i.toNat + x.toNat + 1 := by
  have hx := x.isLt
  simp only [State.advanceIndex_i, hi, BitVec.toNat_add, BitVec.toNat_setWidth, BitVec.toNat_ofNat]
  omega

/-- Bytes written from `a` on, read back by position; every other byte is as before. -/
theorem State.byteAt_setBytesAt_of_inside {s : State} {bs : List Byte} {a : Nat} (hs : memCanonical s)
    (h : a + bs.length ≤ 4096) {k : Nat} (hk : k < bs.length) : (s.setBytesAt a bs).byteAt (a + k) = bs[k] := by
  rw [State.byteAt_setBytesAt hs h, if_neg (by omega), Nat.add_sub_cancel_left, List.getD_eq_getElem _ _ hk]

theorem State.byteAt_setBytesAt_of_outside {s : State} {bs : List Byte} {a : Nat} (hs : memCanonical s)
    (h : a + bs.length ≤ 4096) {c : Nat} (hc : c < a ∨ a + bs.length ≤ c) :
    (s.setBytesAt a bs).byteAt c = s.byteAt c := by
  rw [State.byteAt_setBytesAt hs h]
  split
  · rfl
  · exact List.getD_eq_default _ _ (by omega)

/-- MEM after FX33: the digits at I, I + 1, I + 2, and the old bytes elsewhere. -/
theorem byteAt_after_ldB {x : RegIx} {s : State} (hs : memCanonical s) (h : s.i.toNat ≤ 0xFFD) (a : Nat) :
    (s.setBytesAt s.i.toNat (decimalDigits (s.reg x))).byteAt a = byteAfterDecimal s x a := by
  have hfit : s.i.toNat + (decimalDigits (s.reg x)).length ≤ 4096 := by rw [decimalDigits_length]; omega
  have hat {k : Nat} (hk : k < 3) := State.byteAt_setBytesAt_of_inside hs hfit (k := k) hk
  unfold byteAfterDecimal
  split_ifs with h0 h1 h2
  · exact h0 ▸ hat (by decide : 0 < 3)
  · exact h1 ▸ hat (by decide : 1 < 3)
  · exact h2 ▸ hat (by decide : 2 < 3)
  · exact State.byteAt_setBytesAt_of_outside hs hfit (by rw [decimalDigits_length]; omega)

/-- MEM after FX55: V0..Vx from I on, and the old bytes elsewhere. -/
theorem byteAt_after_save {x : RegIx} {s : State} (hs : memCanonical s) (h : s.i.toNat + x.toNat ≤ 0xFFF) (a : Nat) :
    (s.setBytesAt s.i.toNat (s.regsFromZero (regCount x))).byteAt a = byteAfterSave s x a := by
  have hx := x.isLt
  have hlen := s.regsFromZero_length x
  have hfit : s.i.toNat + (s.regsFromZero (regCount x)).length ≤ 4096 := by omega
  unfold byteAfterSave
  split_ifs with hin
  · have hreg : (BitVec.ofNat 4 (a - s.i.toNat)).toNat = a - s.i.toNat := by
      rw [BitVec.toNat_ofNat]
      omega
    have hreg' := s.regsFromZero_getD x (BitVec.ofNat 4 (a - s.i.toNat)) (s.byteAt a) (by omega)
    rw [State.byteAt_setBytesAt hs hfit, if_neg (by omega), ← hreg', hreg]
  · exact State.byteAt_setBytesAt_of_outside hs hfit (by omega)

theorem byteAfterSave_register {s : State} {x r : RegIx} (h : r.toNat ≤ x.toNat) :
    byteAfterSave s x (s.i.toNat + r.toNat) = s.reg r := by
  rw [byteAfterSave, if_pos (by omega), Nat.add_sub_cancel_left, BitVec.ofNat_toNat, BitVec.setWidth_eq]

theorem byteAfterSave_outside {s : State} {x : RegIx} {a : Nat} (h : a < s.i.toNat ∨ s.i.toNat + (x.toNat + 1) ≤ a) :
    byteAfterSave s x a = s.byteAt a := if_neg (by omega)

/-- A register after FX65. -/
theorem reg_after_load (s : State) (x r : RegIx) :
    (s.setRegsFrom 0 (s.bytesAt s.i.toNat (regCount x))).reg r =
      if r.toNat ≤ x.toNat then s.byteAt (s.i.toNat + r.toNat) else s.reg r := by
  rw [State.reg_setRegsFrom, if_neg (Nat.not_lt_zero _), Nat.sub_zero]
  split
  · next hle => exact State.bytesAt_getD _ _ _ _ _ (Nat.lt_succ_of_le hle)
  · next hgt => exact List.getD_eq_default _ _ (by rw [State.bytesAt_length, regCount]; omega)

/-- Settles O46, by the two equations of FX33. -/
theorem decimalDecompose : Obligations.DecimalDecompose := by
  intro x s hs
  refine ⟨fun h => ⟨_, exec_ldB_of_fits h, State.setBytesAt_eq .., ?_, ?_, ?_, fun a ha => ?_⟩,
    fun h => ⟨_, exec_ldB_past h, rfl⟩⟩
  all_goals
    have hlt := (s.reg x).isLt
    rw [byteAt_after_ldB hs h, byteAfterDecimal]
  · rw [if_pos rfl, BitVec.toNat_ofNat]
    omega
  · rw [if_neg (by omega), if_pos rfl, BitVec.toNat_ofNat]
    omega
  · rw [if_neg (by omega), if_neg (by omega), if_pos rfl, BitVec.toNat_ofNat]
    omega
  · rw [if_neg (by omega), if_neg (by omega), if_neg (by omega)]

/-- Settles O47, by the two equations of FX55. -/
theorem saveRegisters : Obligations.SaveRegisters := by
  intro x s hs
  refine ⟨fun h => ⟨_, exec_save_of_fits h, ?_, ?_, fun r hr => ?_, fun a ha => ?_⟩,
    fun h => ⟨_, exec_save_past h, rfl⟩⟩
  · rw [State.setBytesAt_eq s]
    rfl
  · exact State.advanceIndex_i_toNat (s.setBytesAt_i _ _) h
  · exact (byteAt_after_save hs h _).trans (byteAfterSave_register hr)
  · exact (byteAt_after_save hs h a).trans (byteAfterSave_outside ha)

/-- Settles O48, by the two equations of FX65. -/
theorem loadRegisters : Obligations.LoadRegisters := by
  intro x s
  refine ⟨fun h => ⟨_, exec_load_of_fits h, ?_, ?_, fun r hr => ?_, fun r hr => ?_⟩,
    fun h => ⟨_, exec_load_past h, rfl⟩⟩
  · rw [State.setRegsFrom_eq s]
    rfl
  · exact State.advanceIndex_i_toNat (s.setRegsFrom_i _ _) h
  · exact (reg_after_load s x r).trans (if_pos hr)
  · exact (reg_after_load s x r).trans (if_neg (Nat.not_le_of_lt hr))

/-- Settles O49: the bytes FX55 stored are those FX65 loads. -/
theorem saveThenLoadRestores : Obligations.SaveThenLoadRestores := by
  intro x s t u hs hfit hsave hmem hparams hi
  obtain ⟨t', hsave', -, hti, hstored, -⟩ := (saveRegisters x s hs).1 hfit
  cases hsave.symm.trans hsave'
  obtain ⟨w, hload, -, hwi, hloaded, -⟩ := (loadRegisters x u).1 (hi ▸ hfit)
  refine ⟨hti, w, hload, hi ▸ hwi, fun r hr => ?_⟩
  rw [hloaded r hr, State.byteAt_congr hmem hparams, hi, hstored r hr]

/-- The fetch reads the two bytes MEM holds at PC. -/
theorem fetch_of_byteAt {t : State} {f : Nat → Byte} (hf : ∀ a, t.byteAt a = f a) {a : Word} (ha : a.toNat ≤ 0xFFE) :
    fetch { t with pc := a } = .ok (f a.toNat ++ f (a.toNat + 1)) := by
  rw [← hf, ← hf]
  exact fetch_ok (s := { t with pc := a }) ha

/-- Settles O50: a fetch reads MEM as the two stores leave it. -/
theorem storeIsSeenByFetch : Obligations.StoreIsSeenByFetch := fun _ _ hs =>
  ⟨fun h => ⟨_, exec_save_of_fits h, fun _ => fetch_of_byteAt (byteAt_after_save hs h)⟩,
    fun h => ⟨_, exec_ldB_of_fits h, fun _ => fetch_of_byteAt (byteAt_after_ldB hs h)⟩⟩

end Sys2Proof.Machine
end

section
/-! PROOFS. What each instruction writes, over all 34 at once (10_state.md R22 to R33, 42_alu.md R121): the eleven ALU
instructions through `aluForm`, the six with a check through their two equations. -/

namespace Sys2Proof.Machine

/-! ### The ALU instructions -/

theorem exec_of_aluForm {i : Instr} {op : AluOp} {x : RegIx} {o : Operand} (h : aluForm i = some (op, x, o))
    (s : State) : exec i s = .next (arithExec op x o s) := by
  cases i <;> cases h <;> rfl

/-- Settles O24: the flag's write comes after the result's, so it is the one that VF keeps. -/
theorem aluWriteBackOrder : Obligations.AluWriteBackOrder := by
  intro i op x o s rhs res flag hform hrhs halu
  have hoperand : rhs = s.operand o := by cases o <;> exact hrhs
  subst hoperand
  refine ⟨_, exec_of_aluForm hform s, arithExec_eq op x o s, fun r => ?_⟩
  rw [arithExec_reg, halu]
  rcases flag with _ | _ | _ <;> simp

/-- Settles O28: the `add` row of the table with the immediate. -/
theorem addImmediateWritesCarry : Obligations.AddImmediateWritesCarry := fun x nn s =>
  ⟨_, rfl, arithExec_of_flag_toNat (o := .imm nn) (Nat.mod_lt _ (by decide)) (alu_add (s.reg x) nn s.compat)⟩

section
variable {op : AluOp} {x : RegIx} {o : Operand} {s : State}

/-- An ALU instruction changes its destination, and VF where the operation has a flag. -/
theorem eq_or_flag_of_arithExec_reg_ne {r : RegIx} (h : (arithExec op x o s).reg r ≠ s.reg r) :
    r = x ∨ (alu (s.reg x) (s.operand o) op s.compat).2.isSome ∧ r = 0xF#4 := by
  rw [arithExec_reg] at h
  cases hflag : (alu (s.reg x) (s.operand o) op s.compat).2 with
  | none =>
    refine .inl (by_contra fun hx => h ?_)
    simp only [hflag, if_neg hx]
  | some b =>
    by_cases hf : r = 0xF#4
    · exact .inr ⟨rfl, hf⟩
    · refine .inl (by_contra fun hx => h ?_)
      simp only [hflag, if_neg hf, if_neg hx]

theorem flagByte_eq_zero_or_one (b : Bool) : flagByte b = 0#8 ∨ flagByte b = 1#8 := by
  cases b
  · exact .inl rfl
  · exact .inr rfl

theorem arithExec_flag (h : (alu (s.reg x) (s.operand o) op s.compat).2.isSome) :
    (arithExec op x o s).reg 0xF#4 = 0#8 ∨ (arithExec op x o s).reg 0xF#4 = 1#8 := by
  obtain ⟨b, hb⟩ := Option.isSome_iff_exists.mp h
  rw [arithExec_reg, hb]
  exact flagByte_eq_zero_or_one b

end

/-! ### The checks -/

theorem checkFails_call_iff {nnn : Addr} {s : State} : checkFails (.call nnn) s ↔ s.stackFull = true :=
  s.stackFull_iff.symm

/-- An instruction whose check fails raises, and does nothing else. -/
theorem exec_of_checkFails {i : Instr} {s : State} (h : checkFails i s) : ∃ f, exec i s = .next (s.raise f) := by
  cases i with
  | ret => exact ⟨_, exec_ret_of_empty h⟩
  | call nnn => exact ⟨_, exec_call_of_full (checkFails_call_iff.mp h) nnn⟩
  | drw x y n =>
    obtain ⟨hn, hout⟩ := h
    exact ⟨_, exec_drw_past hn (by omega)⟩
  | ldB x => exact ⟨_, exec_ldB_past h⟩
  | save x => exact ⟨_, exec_save_past h⟩
  | load x => exact ⟨_, exec_load_past h⟩
  | _ => exact absurd h id

section
variable {s : State}

theorem exec_ret_of_passes (h : ¬ checkFails .ret s) :
    ∃ a below, s.stack = below ++ [a] ∧ exec .ret s = .next { s with pc := a, stack := below } := by
  rcases List.eq_nil_or_concat' s.stack with hnil | ⟨below, a, happ⟩
  · exact absurd hnil h
  · exact ⟨a, below, happ, exec_ret_of_append happ⟩

theorem exec_call_of_passes {nnn : Addr} (h : ¬ checkFails (.call nnn) s) :
    exec (.call nnn) s = .next { s with pc := zextAddr nnn, stack := s.stack ++ [s.pc] } :=
  exec_call_of_room (Bool.not_eq_true _ ▸ mt checkFails_call_iff.mpr h) nnn

theorem exec_drw_of_passes {vx vy : RegIx} {n : Nibble} (h : ¬ checkFails (.drw vx vy n) s) :
    exec (.drw vx vy n) s = .next ({ s with fb := (s.drawn vx vy n).1 }.setFlag (s.drawn vx vy n).2) := by
  rw [checkFails] at h
  exact exec_drw_of_fits (by omega)

end

/-- Settles O12: an instruction whose check fails raises; every other outcome keeps RUN. -/
theorem instructionHaltsExactlyOnItsCheck : Obligations.InstructionHaltsExactlyOnItsCheck := by
  intro i s t hs h
  by_cases hc : checkFails i s
  · obtain ⟨f, hf⟩ := exec_of_checkFails hc
    cases hf.symm.trans h
    exact iff_of_true rfl hc
  · suffices hrun : t.run = s.run from iff_of_false (by rw [hrun, hs]; decide) hc
    cases i with
    | ret =>
      obtain ⟨a, below, -, hexec⟩ := exec_ret_of_passes hc
      cases hexec.symm.trans h
      rfl
    | call nnn => cases (exec_call_of_passes hc).symm.trans h; rfl
    | drw x y n => cases (exec_drw_of_passes hc).symm.trans h; rfl
    | ldB x => cases (exec_ldB_of_fits (Nat.le_of_not_lt hc)).symm.trans h; exact State.setBytesAt_run ..
    | save x => cases (exec_save_of_fits (Nat.le_of_not_lt hc)).symm.trans h; exact State.setBytesAt_run ..
    | load x => cases (exec_load_of_fits (Nat.le_of_not_lt hc)).symm.trans h; exact State.setRegsFrom_run ..
    | ldVxK x => cases h; split <;> rfl
    | seImm _ _ | sneImm _ _ | seReg _ _ | sneReg _ _ | skp _ | sknp _ => cases h; exact State.skipIf_run ..
    | ldImm _ _ | addImm _ _ | ldReg _ _ | orReg _ _ | andReg _ _ | xorReg _ _ | addReg _ _ | sub _ _ | shr _ _
    | subn _ _ | shl _ _ => cases h; exact arithExec_run ..
    | cls | jp _ | ldI _ | jpV0 _ | rnd _ _ | ldVxDt _ | ldDtVx _ | ldStVx _ | addI _ | ldF _ => cases h; rfl

/-! ### Who writes what -/

/-- Settles O21: the frame of each instruction, by the state it answers. -/
theorem onlyNamedInstructionsWrite : Obligations.OnlyNamedInstructionsWrite := by
  intro i s t h
  by_cases hc : checkFails i s
  · obtain ⟨f, hf⟩ := exec_of_checkFails hc
    cases hf.symm.trans h
    simp
  · cases i with
    | ret =>
      obtain ⟨a, below, -, hexec⟩ := exec_ret_of_passes hc
      cases hexec.symm.trans h
      simp
    | call nnn => cases (exec_call_of_passes hc).symm.trans h; simp
    | drw x y n => cases (exec_drw_of_passes hc).symm.trans h; simp
    | ldB x => cases (exec_ldB_of_fits (Nat.le_of_not_lt hc)).symm.trans h; simp
    | save x => cases (exec_save_of_fits (Nat.le_of_not_lt hc)).symm.trans h; simp
    | load x => cases (exec_load_of_fits (Nat.le_of_not_lt hc)).symm.trans h; simp
    | ldVxK x => cases h; split <;> simp
    | _ => cases h; simp

/-- The register frame of an instruction (10_state.md R23, R24). -/
def RegisterFrame (i : Instr) (s t : State) : Prop :=
  (∀ r : RegIx, t.reg r ≠ s.reg r → writesReg i r ∨ (writesFlag i ∧ r = 0xF#4)) ∧
    (writesFlag i → s.run = .running → t.run = .running → t.reg 0xF#4 = 0#8 ∨ t.reg 0xF#4 = 1#8)

section
variable {i : Instr} {s t : State}

theorem RegisterFrame.of_same_v (hv : t.v = s.v) (hflag : ¬ writesFlag i) : RegisterFrame i s t :=
  ⟨fun r hr => absurd (State.reg_congr hv r) hr, fun hf => absurd hf hflag⟩

theorem RegisterFrame.of_setReg {x : RegIx} {b : Byte} (hx : writesReg i x) (hflag : ¬ writesFlag i) :
    RegisterFrame i s (s.setReg x b) := by
  refine ⟨fun r hr => .inl ?_, fun hf => absurd hf hflag⟩
  have hrx : r = x := by_contra fun hne => hr (s.reg_setReg_ne b hne)
  exact hrx ▸ hx

theorem RegisterFrame.of_raise (f : Fatal) : RegisterFrame i s (s.raise f) :=
  ⟨fun _ hr => absurd rfl hr, fun _ _ hrun => by cases hrun⟩

end

/-- Settles O22: each instruction by the registers it writes. -/
theorem onlyDestinationsAndFlagChange : Obligations.OnlyDestinationsAndFlagChange := by
  intro i s t h
  change RegisterFrame i s t
  by_cases hc : checkFails i s
  · obtain ⟨f, hf⟩ := exec_of_checkFails hc
    cases hf.symm.trans h
    exact .of_raise f
  · cases i with
    | ret =>
      obtain ⟨a, below, -, hexec⟩ := exec_ret_of_passes hc
      cases hexec.symm.trans h
      exact .of_same_v rfl id
    | call nnn => cases (exec_call_of_passes hc).symm.trans h; exact .of_same_v rfl id
    | drw x y n =>
      cases (exec_drw_of_passes hc).symm.trans h
      refine ⟨fun r hr => .inr ⟨trivial, by_contra fun hne => hr (State.reg_setReg_ne _ _ hne)⟩, fun _ _ _ => ?_⟩
      rw [State.reg_setFlag, if_pos rfl]
      exact flagByte_eq_zero_or_one _
    | ldB x => cases (exec_ldB_of_fits (Nat.le_of_not_lt hc)).symm.trans h; exact .of_same_v (State.setBytesAt_v ..) id
    | save x =>
      cases (exec_save_of_fits (Nat.le_of_not_lt hc)).symm.trans h
      exact .of_same_v (State.setBytesAt_v ..) id
    | load x =>
      cases (exec_load_of_fits (Nat.le_of_not_lt hc)).symm.trans h
      refine ⟨fun r hr => .inl (by_contra fun hgt => hr ?_), fun hf => hf.elim⟩
      exact (reg_after_load s x r).trans (if_neg hgt)
    | ldVxK x =>
      cases h
      split
      · exact .of_same_v rfl id
      · exact .of_setReg rfl id
    | ldImm _ _ | ldReg _ _ | orReg _ _ | andReg _ _ | xorReg _ _ =>
      cases h
      exact ⟨fun r hr => .inl ((eq_or_flag_of_arithExec_reg_ne hr).resolve_right fun hf => by cases hf.1),
        fun hf => hf.elim⟩
    | addImm _ _ | addReg _ _ | sub _ _ | shr _ _ | subn _ _ | shl _ _ =>
      cases h
      exact ⟨fun r hr => (eq_or_flag_of_arithExec_reg_ne hr).imp_right fun hf => ⟨trivial, hf.2⟩,
        fun _ _ _ => arithExec_flag rfl⟩
    | rnd x _ | ldVxDt x => cases h; exact .of_setReg rfl id
    | seImm _ _ | sneImm _ _ | seReg _ _ | sneReg _ _ | skp _ | sknp _ =>
      cases h
      exact .of_same_v (State.skipIf_v ..) id
    | cls | jp _ | ldI _ | jpV0 _ | ldDtVx _ | ldStVx _ | addI _ | ldF _ => cases h; exact .of_same_v rfl id

end Sys2Proof.Machine
end

section
/-! PROOFS. Jumps, the font index, the timer moves, the key wait and the random byte (41_control_flow.md section 1,
44_index_memory.md R172, 45_timers_keys_random.md). -/

namespace Sys2Proof.Machine

/-! ### Jumps -/

/-- Settles O31: a target above 0xFFE is 0xFFF, and the byte after it is the first past MEM. -/
theorem jumpAbsolute : Obligations.JumpAbsolute := by
  refine fun nnn s => ⟨_, rfl, zextAddr_toNat nnn, rfl, fun hout => ?_⟩
  have hmax : max (zextAddr nnn).toNat 4096 = 4096 := by
    have hle := zextAddr_le nnn
    omega
  rw [← zextAddr_toNat] at hout
  exact hmax ▸ fetch_error (s := { s with pc := zextAddr nnn }) hout

/-- The top nibble of a 12-bit address, as a number. -/
theorem offsetReg_eq (compat : Bool) (nnn : Addr) :
    offsetReg compat nnn = if compat then 0#4 else BitVec.ofNat 4 (nnn.toNat / 256) := by
  have htop : nnn.extractLsb' 8 4 = BitVec.ofNat 4 (nnn.toNat / 256) :=
    BitVec.eq_of_toNat_eq (by rw [BitVec.extractLsb'_toNat, Nat.shiftRight_eq_div_pow, BitVec.toNat_ofNat])
  rw [offsetReg, htop]

/-- The sum JP V0 jumps to does not wrap. -/
theorem zextAddr_add_zextByte_toNat (nnn : Addr) (b : Byte) :
    (zextAddr nnn + zextByte b).toNat = nnn.toNat + b.toNat := by
  have haddr := nnn.isLt
  have hbyte := b.isLt
  rw [add_zextByte_toNat, zextAddr_toNat]
  omega

/-- Settles O32: the sum is one of two numbers that together stay below 2 ^ 16. -/
theorem jumpWithOffset : Obligations.JumpWithOffset := by
  refine fun nnn s => ⟨_, rfl, rfl, ?_, fun hout => fetch_error hout⟩
  exact offsetReg_eq s.compat nnn ▸ zextAddr_add_zextByte_toNat nnn _

/-! ### The font index -/

/-- Settles O45: 0x050 + 5 * 255 is below 2 ^ 16. -/
theorem indexOfFontGlyph : Obligations.IndexOfFontGlyph := by
  refine fun x s => ⟨_, rfl, ?_, rfl⟩
  have hlt := (s.reg x).isLt
  exact Nat.mod_eq_of_lt (by omega : 0x050 + (s.reg x).toNat * 5 < 65536)

/-! ### Timers, keys, random -/

/-- A write of one register is a write of nothing else. -/
theorem State.setReg_frame (s : State) (x : RegIx) (b : Byte) :
    sameRegsExcept [x] s (s.setReg x b) ∧ onlyRegs s (s.setReg x b) :=
  ⟨fun _ hr => s.reg_setReg_ne b (List.ne_of_not_mem_cons hr), rfl⟩

/-- A timer is nonzero after a TICK exactly when it was above 1. -/
theorem countDown_bne_zero (c : Byte) : (countDown c != 0#8) = decide (1 < c.toNat) := by
  rw [Bool.eq_iff_iff, bne_zero_iff_toNat_ne_zero, decide_eq_true_iff, countDown_toNat]
  split <;> omega

/-- Settles O51: each move is one write, and the TICK after FX18 counts the written ST down. -/
theorem timerMoves : Obligations.TimerMoves := by
  intro x s
  obtain ⟨hregs, honly⟩ := s.setReg_frame x s.dt
  refine ⟨⟨_, rfl, s.reg_setReg_same x s.dt, hregs, honly⟩, ⟨_, rfl, rfl, rfl⟩, ⟨_, rfl, rfl, rfl, fun hrun => ?_⟩⟩
  exact tickOp_eq_next.mpr ⟨hrun, rfl, congrArg OpResult.sound (countDown_bne_zero (s.reg x)).symm⟩

/-- The search finds a pressed key where there is one in its range. -/
theorem lowestKey_pressed {keys : BitVec 16} {fuel k j : Nat} (hk : k ≤ j) (hj : j ≤ k + fuel) (hlt : k + fuel < 16)
    (hpressed : keys.getLsbD j = true) : keyPressed keys (lowestKey keys fuel k) = true := by
  induction fuel generalizing k with
  | zero =>
    have hjk : j = k := by omega
    subst hjk
    rwa [lowestKey, keyPressed, BitVec.toNat_ofNat, Nat.mod_eq_of_lt (by omega)]
  | succ fuel ih =>
    rw [lowestKey]
    split
    · next hfound => rwa [keyPressed, BitVec.toNat_ofNat, Nat.mod_eq_of_lt (by omega)]
    · next hnot =>
      have hne : j ≠ k := fun e => hnot (e ▸ hpressed)
      exact ih (by omega) (by omega) (by omega)

theorem chosenKey_of_pressed {inp : StepInputs} (h : keyPressed inp.keys inp.keyChoice = true) :
    chosenKey inp = inp.keyChoice := if_pos h

/-- The key FX0A takes is pressed when any key is (45_timers_keys_random.md R198). -/
theorem chosenKey_pressed {inp : StepInputs} (h : inp.keys ≠ 0#16) : keyPressed inp.keys (chosenKey inp) = true := by
  unfold chosenKey
  split
  · assumption
  · obtain ⟨j, hj⟩ : ∃ j, inp.keys.getLsbD j = true := by
      by_contra hnone
      exact h (BitVec.eq_of_getLsbD_eq fun j _ => by simpa using fun hj => hnone ⟨j, hj⟩)
    have hlt : j < 16 := BitVec.lt_of_getLsbD hj
    exact lowestKey_pressed (Nat.zero_le j) (by omega) (by decide) hj

theorem exec_ldVxK_of_no_key {s : State} (h : s.inputs.keys = 0#16) (x : RegIx) :
    exec (.ldVxK x) s = .next s.rewind := congrArg Host.Outcome.next (if_pos h)

theorem exec_ldVxK_of_key {s : State} (h : s.inputs.keys ≠ 0#16) (x : RegIx) :
    exec (.ldVxK x) s = .next (s.setReg x ((chosenKey s.inputs).setWidth 8)) := congrArg Host.Outcome.next (if_neg h)

/-- Settles O53: the key taken is a pressed one, and it is the input's choice where that is pressed. -/
theorem waitForKey : Obligations.WaitForKey := by
  refine fun x s => ⟨fun h => exec_ldVxK_of_no_key h x, fun h => ?_⟩
  obtain ⟨hregs, honly⟩ := s.setReg_frame x ((chosenKey s.inputs).setWidth 8)
  have hkey : ((s.setReg x ((chosenKey s.inputs).setWidth 8)).reg x).toNat = (chosenKey s.inputs).toNat := by
    rw [State.reg_setReg_same]
    exact BitVec.toNat_setWidth_of_le (by decide)
  refine ⟨_, exec_ldVxK_of_key h x, hregs, honly, ?_, ?_, fun hchoice => ?_⟩ <;> rw [hkey]
  · exact (chosenKey s.inputs).isLt
  · exact chosenKey_pressed h
  · rw [chosenKey_of_pressed hchoice]

/-- Settles O54: the bits of the conjunction are the library's. -/
theorem randomAndMask : Obligations.RandomAndMask := by
  intro x nn s
  obtain ⟨hregs, honly⟩ := s.setReg_frame x (s.inputs.rnd &&& nn)
  refine ⟨_, rfl, hregs, honly, fun k _ => ?_⟩
  rw [State.reg_setReg_same, BitVec.getLsbD_and]

end Sys2Proof.Machine
end
